-- ==== Sys2Proof/Word.lean ====
section
/-! DEFINITION. The words of the PQF block (00_scope.md R9, 10_state.md R24): bytes, 32-bit bus words,
16-bit byte addresses of the host window and 24-bit colours. -/

namespace Sys2Proof

/-- A byte (R9). -/
abbrev Byte := BitVec 8

/-- A word of the host bus and of a CSR, HOST_DATA_W = 32 bits (R7, R9, R24). -/
abbrev Word := BitVec 32

/-- A byte address of the host window, HOST_ADDR_W = 16 bits (R7, R60). -/
abbrev Addr := BitVec 16

/-- A colour, 24 bits `0xRRGGBB` (10_state.md R24, R25). -/
abbrev Colour := BitVec 24

end Sys2Proof
end

