-- ==== Sys2Proof/Syntax.lean ====
section
/-! DEFINITION. The commands of the block (00_scope.md R3), one constructor per row of
spec/opcode_table.json, and the raw command word of format CMD32 (30_encoding.md R90). -/

namespace Sys2Proof

/-- The seven commands a host can issue (00_scope.md R3, 30_encoding.md R91). No command carries an
operand: every operand is a fixed CSR or memory (R94, R95). -/
inductive Instr where
  /-- NOP, OP 0x0 (43_control.md R185) -/
  | nop
  /-- QUANTIZE, OP 0x1 (40_quantizer.md R116) -/
  | quantize
  /-- PACK, OP 0x2 (41_packer.md R138) -/
  | pack
  /-- BUILD_PAYLOAD, OP 0x3 (42_framer.md R156) -/
  | buildPayload
  /-- FRAME, OP 0x4 (42_framer.md R169) -/
  | frame
  /-- ENCODE, OP 0x5 (43_control.md R186) -/
  | encode
  /-- SOFT_RESET, OP 0xF (43_control.md R187) -/
  | softReset
  deriving DecidableEq, Repr

/-- A word written to CMD, split into the two fields of format CMD32 (30_encoding.md R90). -/
structure CommandWord where
  /-- RSVD, bits 31:4 -/
  rsvd : BitVec 28
  /-- OP, bits 3:0 -/
  op : BitVec 4
  deriving DecidableEq, Repr

end Sys2Proof
end

