-- ==== Sys2Proof/WellFormed.lean ====
section
/-! DEFINITION. Which command words are legal (30_encoding.md R92, R93), and that every command is: it
has no operand that could be out of range (R94, R95). -/

namespace Sys2Proof

/-- RSVD must be 0 (30_encoding.md R90, R92). -/
def CommandWord.rsvdClear (c : CommandWord) : Bool := c.rsvd == 0

/-- OP is one that the opcode map assigns: 0x0 to 0x5, or 0xF (30_encoding.md R91, R93). -/
def CommandWord.opAssigned (c : CommandWord) : Bool := decide (c.op.toNat ≤ 5) || c.op == 15

/-- A command word that the opcode map gives a command (30_encoding.md R91). -/
def CommandWord.wf (c : CommandWord) : Bool := c.rsvdClear && c.opAssigned

/-- A command has no immediate, register field or address field (30_encoding.md R94), so nothing in it
can be ill-formed. -/
def Instr.wf : Instr → Bool
  | .nop => true
  | .quantize => true
  | .pack => true
  | .buildPayload => true
  | .frame => true
  | .encode => true
  | .softReset => true

end Sys2Proof
end

