-- ==== Sys2Proof/Decode.lean ====
section
/-! DEFINITION. Command decoding, total on every 32-bit word and rejecting by name (30_encoding.md
R90 to R93), and the encoder, written from the same opcode map (R91). -/

namespace Sys2Proof

/-- Why a word written to CMD is no command. The block records either as ILLEGAL_CMD (30_encoding.md
R92, R93); no illegal word is a hint or a NOP. -/
inductive Rejection where
  /-- RSVD is not 0, whatever OP is (R92) -/
  | reservedBits
  /-- RSVD is 0 and OP is in 0x6 .. 0xE (R93) -/
  | reservedOp
  deriving DecidableEq, Repr

/-- The fields of a word: OP is bits 3:0 and RSVD bits 31:4 (30_encoding.md R90). -/
def splitWord (w : Word) : CommandWord := { rsvd := w.extractLsb' 4 28, op := w.extractLsb' 0 4 }

/-- The command of an OP value, `none` for the reserved ones (30_encoding.md R91, R93). -/
def commandOfOp (op : BitVec 4) : Option Instr :=
  match op.toNat with
  | 0 => some .nop
  | 1 => some .quantize
  | 2 => some .pack
  | 3 => some .buildPayload
  | 4 => some .frame
  | 5 => some .encode
  | 15 => some .softReset
  | _ => none

/-- The command of a word: RSVD is tested before OP (30_encoding.md R92, R93, 60_exceptions.md R204). -/
def decodeWord (w : Word) : Except Rejection Instr :=
  if (splitWord w).rsvd = 0 then
    match commandOfOp (splitWord w).op with
    | some i => .ok i
    | none => .error .reservedOp
  else .error .reservedBits

/-- The OP value of a command (30_encoding.md R91). -/
def Instr.op : Instr → BitVec 4
  | .nop => 0
  | .quantize => 1
  | .pack => 2
  | .buildPayload => 3
  | .frame => 4
  | .encode => 5
  | .softReset => 15

/-- The CMD word of a command: RSVD = 0 above its OP (30_encoding.md R90, R91). -/
def encode (i : Instr) : Word := (0 : BitVec 28) ++ i.op

/-- The command the decoder reads from the table's bits `w` of a row of `nbits` bits: a command is one
32-bit word (30_encoding.md R90), and every bit above `nbits` is 0. -/
def decodeTableWord (nbits w : Nat) : Option Instr :=
  match decodeWord (BitVec.ofNat 32 (w % 2 ^ nbits)) with
  | .ok i => some i
  | .error _ => none

end Sys2Proof
end

