-- ==== Sys2Proof/Machine/Snapshot.lean ====
section
/-! DEFINITION. The copy of a command's inputs that is fixed at its acceptance (43_control.md R182,
30_encoding.md R94, the "reads" column), one constructor per command that runs in the sequencer. -/

namespace Sys2Proof.Machine

/-- The inputs of an accepted command (43_control.md R182). The constructor names the command, so `op`
and `snap` of `SEQ = RUN(op, snap, k)` (10_state.md R21) cannot disagree. SOFT_RESET has no snapshot: it
never runs in the sequencer (43_control.md R187). -/
inductive Snapshot where
  /-- NOP reads nothing (43_control.md R185) -/
  | nop
  /-- QUANTIZE reads PIXEL_MEM (40_quantizer.md R116) -/
  | quantize (pixels : List Colour)
  /-- PACK reads INDEX_MEM, PAL_COUNT and QVALID (41_packer.md R138) -/
  | pack (indices : List Byte) (palCount : BitVec 9) (qvalid : Bool)
  /-- BUILD_PAYLOAD reads PALETTE_MEM[0..N-1], PAL_COUNT = N, PACK_MEM[0..L-1], PACK_LEN = L, QVALID and
  PVALID (42_framer.md R156) -/
  | buildPayload (palette : List Colour) (palCount : BitVec 9) (packed : List Byte) (packLen : BitVec 11)
      (qvalid pvalid : Bool)
  /-- FRAME reads FRAME_CMD, PAYLOAD_LEN = m, PAYLOAD_MEM[0..m-1] and CTRL.STUFF (42_framer.md R169) -/
  | frame (cmd : Byte) (payloadLen : BitVec 16) (payload : List Byte) (stuff : Bool)
  /-- ENCODE reads PIXEL_MEM and CTRL.STUFF (43_control.md R186) -/
  | encode (pixels : List Colour) (stuff : Bool)
  deriving DecidableEq, Repr

end Sys2Proof.Machine
end

