-- ==== Sys2Proof/Config.lean ====
section
/-! DEFINITION. The fixed parameters of 00_scope.md R7, and the free values: constants without a body,
so that nothing can be proved of their values and a statement holds whatever they are. -/

namespace Sys2Proof.Config

/-! ### Fixed parameters (00_scope.md R7) -/

/-- NPIX = 32 × 32 pixels (R6, R7). -/
abbrev nPix : Nat := 1024

/-- PAL_MAX, the largest palette kept without reduction (R7). -/
abbrev palMax : Nat := 256

/-- PAYLOAD_MAX, the size of PAYLOAD_MEM (R7, D13). -/
abbrev payloadMax : Nat := 2048

/-- REDUCE_MASK on a 24-bit colour (R7, 40_quantizer.md R112). -/
abbrev reduceMask : Colour := 0xE0E0C0

/-- IMAGE_CMD, the display-image command byte (R7). -/
abbrev imageCmd : Byte := 0x44

/-- LEN_BIAS of the sub-header's `len` field (R7, 90_conflicts.md C1). -/
abbrev lenBias : Nat := 8

/-- START_DELIM (R7). -/
abbrev startDelim : Byte := 0x01

/-- END_DELIM (R7). -/
abbrev endDelim : Byte := 0x02

/-- ESC, the escape byte of byte-stuffing (R7). -/
abbrev esc : Byte := 0x03

/-- ID_VALUE (R7, D23). -/
abbrev idValue : Word := 0x50514601

/-! ### Open parameters and free values -/

/-- STUFF_RESET, the reset value of CTRL.STUFF: the spec's OPEN parameter (R7, D11, U8). DESIGN CHOICE
(log 4), safe: a statement holds for both values. -/
opaque stuffReset : Bool

/-- T_LAT − 1, the sequencer ticks a command takes beyond the one that completes it: the spec's OPEN
parameter (R7, 43_control.md R184, D18, U9), drawn anew (the last argument counts the draws) at each
acceptance. DESIGN CHOICE (log 3), safe: a statement holds for every latency. -/
opaque extraTicks : Machine.Snapshot → Nat → Nat

/-- What a read of an unspecified entry at a window address returns (U1 to U4), drawn anew at each read.
DESIGN CHOICE (log 5), safe: nothing constrains it. -/
opaque anyWord : Addr → Nat → Word

/-- What an unspecified byte at a window address holds where a command samples it (log 11: no reachable
state does). DESIGN CHOICE, safe: nothing constrains it. -/
opaque anyByte : Nat → Nat → Byte

end Sys2Proof.Config
end

