-- ==== Sys2Proof/Machine/State.lean ====
section
/-! DEFINITION. The state of the block (10_state.md R23), its outcomes other than a next state, and the
state after hardware reset (70_reset_and_hazards.md R232). -/

namespace Sys2Proof.Machine

/-- The six memories of the host window (20_memory.md R62) in one: pairs of a window byte address and the
byte held there, addresses strictly rising. An address that is not listed holds no defined value: nothing
has written it since hardware reset, or a command has made it unspecified (70_reset_and_hazards.md R233,
40_quantizer.md R117). A 24-bit colour entry takes the three lowest byte lanes of its word (B, G, R) and an
INDEX_MEM entry the lowest; the ghost written-bit of an entry (10_state.md R56) is its being listed
(DESIGN CHOICE, log 6, safe). -/
abbrev Memory := List Host.Cell

/-- The canonical form: addresses strictly rising, so that equal memories are equal lists. -/
abbrev Memory.wf (m : Memory) : Prop := m.Pairwise (fun a b => a.1 < b.1)

/-- The sequencer state SEQ (10_state.md R21). -/
inductive Seq where
  /-- IDLE -/
  | idle
  /-- RUN(op, snap, k): `k` ticks are left, `k ≥ 1` (43_control.md R184); `snap` names its op -/
  | run (snap : Snapshot) (k : Nat)
  deriving DecidableEq, Repr

/-- One turn of one agent (10_state.md R22, 20_memory.md R61). -/
inductive Turn where
  /-- the host reads a word: MemRead(addr, 4) (20_memory.md R60) -/
  | read (addr : Addr)
  /-- the host writes a word: MemWrite(addr, 4, v) (20_memory.md R60) -/
  | write (addr : Addr) (v : Word)
  /-- the sequencer takes a tick (43_control.md R184) -/
  | tick
  /-- the platform asserts rst_n: hardware reset (70_reset_and_hazards.md R231) -/
  | reset
  deriving DecidableEq, Repr

/-- The block's state (10_state.md R23), and three fields of the model's own or of the bus port: `rdata`,
`turns`, `draws`. STATUS.BUSY, `irq`, ID and CMD are views (log 17). -/
structure State where
  /-- SEQ (R21) -/
  seq : Seq
  /-- CTRL.STUFF (R28) -/
  stuff : Bool
  /-- CTRL.IRQ_EN (R28) -/
  irqEn : Bool
  /-- STATUS.DONE (R32) -/
  done : Bool
  /-- STATUS.ERR (R33) -/
  err : Bool
  /-- STATUS.QVALID (R34) -/
  qvalid : Bool
  /-- STATUS.PVALID (R35) -/
  pvalid : Bool
  /-- STATUS.YVALID (R36) -/
  yvalid : Bool
  /-- STATUS.FVALID (R37) -/
  fvalid : Bool
  /-- STATUS.REDUCED (R38) -/
  reduced : Bool
  /-- ERR_CODE.CODE (R39) -/
  errCode : BitVec 4
  /-- FRAME_CMD.CMD (R40) -/
  frameCmd : Byte
  /-- PAYLOAD_LEN.LEN (R41) -/
  payloadLen : BitVec 16
  /-- PAL_COUNT.N (R42) -/
  palCount : BitVec 9
  /-- BIT_WIDTH.W (R43) -/
  bitWidth : BitVec 4
  /-- PACK_LEN.L (R44) -/
  packLen : BitVec 11
  /-- INNER_LEN (R45) -/
  innerLen : BitVec 16
  /-- CHECKSUM (R46) -/
  checksum : BitVec 16
  /-- OUT_LEN (R47) -/
  outLen : BitVec 14
  /-- PIXEL_MEM, PALETTE_MEM, INDEX_MEM, PACK_MEM, PAYLOAD_MEM and OUT_MEM (R49 to R54) and the ghost
  written-bits (R56) -/
  mem : Memory
  /-- the word the last bus read returned, the read-data port (70_reset_and_hazards.md R230; log 9) -/
  rdata : Word
  /-- MODEL's own: the turns still to come, in the order in which they take effect (log 1) -/
  turns : List Turn
  /-- MODEL's own: how many free values were drawn so far (log 5) -/
  draws : Nat
  deriving DecidableEq, Repr

/-- Why the machine stops with a fault: the model fault of 70_reset_and_hazards.md R236 alone (U5). -/
inductive Fault where
  /-- UNWRITTEN_PIXEL (R236, U5): `op` (QUANTIZE or ENCODE) was accepted while PIXEL_MEM[`entry`] was never
  written since hardware reset. Raised at acceptance by `execQuantize` and `execEncode`. Safe: the hardware
  would read an unspecified colour and go on, so a true claim may become unprovable, no false one provable. -/
  | unwrittenPixel (op : Instr) (entry : Nat)
  /-- UNWRITTEN_PAYLOAD (R236, U5): `op` (FRAME) was accepted while PAYLOAD_MEM[`entry`], `entry` below
  PAYLOAD_LEN, was never written since hardware reset. Raised at acceptance by `execFrame`. Safe, as above. -/
  | unwrittenPayload (op : Instr) (entry : Nat)
  deriving DecidableEq, Repr

/-- Why the model gives an instruction no meaning. The refusals of 93_implementation_defined.md (U6, U7, U15,
U17, U19) concern receivers, canvases, replies and bus masters that no turn of this machine can express. -/
inductive Refusal where
  /-- raised by `exec` alone, for an instruction without a meaning (none is left). Safe: nothing can be
  proved of what the instruction does. -/
  | notModelled (mnemonic : String)
  deriving DecidableEq, Repr

/-- What one step answers. -/
abbrev Outcome := Host.Outcome State Fault Refusal

/-- The machine right after hardware reset (70_reset_and_hazards.md R232): nothing is listed in the memories,
which are unspecified (R233). `rdata`, `turns` and `draws` are DESIGN CHOICE (log 9, log 1, log 5). -/
def State.reset : State where
  seq := .idle
  stuff := Config.stuffReset
  irqEn := false
  done := false
  err := false
  qvalid := false
  pvalid := false
  yvalid := false
  fvalid := false
  reduced := false
  errCode := 0
  frameCmd := 0x44
  payloadLen := 0
  palCount := 0
  bitWidth := 0
  packLen := 0
  innerLen := 0
  checksum := 0
  outLen := 0
  mem := []
  rdata := 0
  turns := []
  draws := 0

end Sys2Proof.Machine
end

