-- ==== Sys2Proof/Machine/Flags.lean ====
section
/-! DEFINITION. STATUS and CTRL as words, the flags' views and their updates: BUSY and `irq` (10_state.md
R31, R58), the W1C write (R32, R33), the invalidations (20_memory.md R83) and the flags of completion. -/

namespace Sys2Proof.Machine

/-- The snapshot of the running command, if one runs (10_state.md R21). -/
def State.running (s : State) : Option Snapshot :=
  match s.seq with
  | .idle => none
  | .run snap _ => some snap

/-- STATUS.BUSY is 1 exactly while SEQ is RUN (10_state.md R21, R31). -/
def State.busy (s : State) : Bool :=
  match s.seq with
  | .idle => false
  | .run _ _ => true

/-- `irq = CTRL.IRQ_EN & (STATUS.DONE | STATUS.ERR)`, a level (10_state.md R58, 60_exceptions.md R208). -/
def State.irq (s : State) : Bool := s.irqEn && (s.done || s.err)

/-- The word with `b` in bit `n` and 0 elsewhere. -/
def bitAt (n : Nat) (b : Bool) : Word := if b then (1 : Word) <<< n else 0

/-- STATUS as the host reads it (10_state.md R30); bits 31:8 are reserved and read 0. -/
def State.statusWord (s : State) : Word :=
  bitAt 0 s.busy ||| bitAt 1 s.done ||| bitAt 2 s.err ||| bitAt 3 s.qvalid ||| bitAt 4 s.pvalid
    ||| bitAt 5 s.yvalid ||| bitAt 6 s.fvalid ||| bitAt 7 s.reduced

/-- CTRL as the host reads it (10_state.md R28); bits 31:2 are reserved and read 0. -/
def State.ctrlWord (s : State) : Word := bitAt 0 s.stuff ||| bitAt 1 s.irqEn

/-- A host write to STATUS: bit 1 = 1 clears DONE; bit 2 = 1 clears ERR and ERR_CODE (10_state.md R32, R33,
R39, 60_exceptions.md R206). Accepted even while busy; no other bit has an effect (R30). This is the block's
return from an error: it restores nothing else, because nothing was saved. -/
def State.writeStatus (v : Word) (s : State) : State :=
  { s with
    done := s.done && !v.getLsbD 1
    err := s.err && !v.getLsbD 2
    errCode := if v.getLsbD 2 then 0 else s.errCode }

/-- An accepted write to any PIXEL_MEM entry: `QVALID <- 0; PVALID <- 0; YVALID <- 0` (20_memory.md R83). -/
def State.invalidateImage (s : State) : State :=
  { s with qvalid := false, pvalid := false, yvalid := false }

/-- An accepted write to any PAYLOAD_MEM word or to PAYLOAD_LEN: `YVALID <- 0` (20_memory.md R83). -/
def State.invalidatePayload (s : State) : State := { s with yvalid := false }

/-- The flags every completion leaves: `SEQ <- IDLE`, so BUSY = 0, and `STATUS.DONE <- 1` (43_control.md
R183). -/
def State.finish (s : State) : State := { s with seq := .idle, done := true }

end Sys2Proof.Machine
end

