-- ==== Sys2Proof/Machine/Ops.lean ====
section
/-! DEFINITION. The named operations every meaning goes through: reads and writes of the memories, recording
an error (the block's analogue of taking an exception, 60_exceptions.md R200, R203), accepting a command
(43_control.md R180 to R184) and the two resets (R187, 70_reset_and_hazards.md R231). -/

namespace Sys2Proof.Machine

/-! ### Memory -/

/-- The byte held at a window address, `none` where no defined value is held. -/
def Memory.read (m : Memory) (a : Nat) : Option Byte := m.lookup a

/-- The memory with the addresses `lo ≤ a < hi` holding exactly `cells`, and every other address as before. -/
def Memory.replace (m : Memory) (lo hi : Nat) (cells : Memory) : Memory :=
  m.filter (fun c => decide (c.1 < lo)) ++ (cells ++ m.filter (fun c => decide (hi ≤ c.1)))

/-- Consecutive bytes from address `a` up: byte `b` of a byte memory lies at its region's base + `b`
(20_memory.md R62, R64). -/
def byteCells (a : Nat) : List Byte → Memory
  | [] => []
  | b :: bs => (a, b) :: byteCells (a + 1) bs

/-- Colour entries, one a word from address `a` up (20_memory.md R62, R65): bits 7:0 (B) in the lowest lane,
then 15:8 (G) and 23:16 (R); the alpha lane holds nothing (10_state.md R25). -/
def colourCells (a : Nat) : List Colour → Memory
  | [] => []
  | c :: cs =>
    (a, c.extractLsb' 0 8) :: (a + 1, c.extractLsb' 8 8) :: (a + 2, c.extractLsb' 16 8)
      :: colourCells (a + 4) cs

/-- INDEX_MEM entries, one a word from address `a` up, the index in bits 7:0 (20_memory.md R62). -/
def indexCells (a : Nat) : List Byte → Memory
  | [] => []
  | b :: bs => (a, b) :: indexCells (a + 4) bs

/-- Store bytes from `base` up into a byte memory of `size` bytes (no run reaches a result that is longer;
log 12), leaving its other bytes as they were (20_memory.md R69). -/
def Memory.storeBytes (m : Memory) (base size : Nat) (bs : List Byte) : Memory :=
  m.replace base (base + (bs.take size).length) (byteCells base (bs.take size))

/-- A byte is written: its ghost written-bit is 1 (10_state.md R56). -/
def Memory.byteWritten (m : Memory) (a : Nat) : Bool := (m.read a).isSome

/-- A colour entry is written: its ghost written-bit is 1 (10_state.md R56). -/
def Memory.colourWritten (m : Memory) (a : Nat) : Bool :=
  m.byteWritten a && m.byteWritten (a + 1) && m.byteWritten (a + 2)

/-! ### Recording an error -/

/-- The error codes of 60_exceptions.md R201. -/
inductive ErrorCode where
  /-- 1: RSVD ≠ 0 or a reserved OP, while BUSY = 0 -/
  | illegalCmd
  /-- 2: any CMD write while BUSY = 1 -/
  | cmdWhileBusy
  /-- 3: PACK or BUILD_PAYLOAD with QVALID = 0 -/
  | notQuantized
  /-- 4: BUILD_PAYLOAD with QVALID = 1 and PVALID = 0 -/
  | notPacked
  /-- 5: FRAME with PAYLOAD_LEN > 2048 -/
  | payloadRange
  /-- 6: a host write to CTRL, FRAME_CMD, PAYLOAD_LEN, PIXEL_MEM or PAYLOAD_MEM while BUSY = 1 -/
  | writeWhileBusy
  deriving DecidableEq, Repr

/-- The value of ERR_CODE.CODE for an error (60_exceptions.md R201). -/
def ErrorCode.bits : ErrorCode → BitVec 4
  | .illegalCmd => 1
  | .cmdWhileBusy => 2
  | .notQuantized => 3
  | .notPacked => 4
  | .payloadRange => 5
  | .writeWhileBusy => 6

/-- `raise Error(code)`: the first error since ERR was last cleared keeps its code; ERR becomes 1; nothing
else changes (60_exceptions.md R200, R203). There is no handler, no saved program counter and no mode
change. Its undoing is `State.writeStatus` (R206). -/
def raiseError (code : ErrorCode) (s : State) : State :=
  { s with
    err := true
    errCode := if s.err then s.errCode else code.bits }

/-! ### Accepting a command -/

/-- T_LAT of a command with the given inputs: any number of ticks ≥ 1 (43_control.md R184). -/
def latency (snap : Snapshot) (draw : Nat) : Nat := Config.extraTicks snap draw + 1

/-- Acceptance: `SEQ <- RUN(op, snap, k)` with a fresh draw of `k` (43_control.md R180, R184). DONE and ERR
stay as they are (R181). -/
def accept (snap : Snapshot) (s : State) : State :=
  { s with seq := .run snap (latency snap s.draws), draws := s.draws + 1 }

/-- A CMD write of a legal command word that runs in the sequencer (43_control.md R180, 60_exceptions.md
R204): while busy it is rejected with CMD_WHILE_BUSY; else the command's own check `error` rejects it; else it
is accepted, which is a model fault where it would consume an input never written (70_reset_and_hazards.md
R236). -/
def issue (error : Option ErrorCode) (missing : Option Fault) (snap : Snapshot) (s : State) : Outcome :=
  if s.busy then .next (raiseError .cmdWhileBusy s)
  else
    match error, missing with
    | some code, _ => .next (raiseError code s)
    | none, some f => .fault f
    | none, none => .next (accept snap s)

/-! ### Reset -/

/-- Every CSR field at its reset value (10_state.md R27 to R47, 70_reset_and_hazards.md R232); SEQ, the
memories and the written-bits as they were. -/
def resetCsrs (s : State) : State :=
  { s with
    stuff := Config.stuffReset
    irqEn := false
    done := false
    err := false
    qvalid := false
    pvalid := false
    yvalid := false
    fvalid := false
    reduced := false
    errCode := 0
    frameCmd := 0x44
    payloadLen := 0
    palCount := 0
    bitWidth := 0
    packLen := 0
    innerLen := 0
    checksum := 0
    outLen := 0 }

/-- Hardware reset (70_reset_and_hazards.md R231, R233): a running command is abandoned with no completion,
every CSR takes its reset value, every written-bit is cleared and every memory entry is unspecified. The
read-data port and the model's own fields stay (log 9). -/
def hardwareReset (s : State) : State := { resetCsrs s with seq := .idle, mem := [] }

end Sys2Proof.Machine
end

