-- ==== Sys2Proof/Machine/Operands.lean ====
section
/-! DEFINITION. Operand forms. The address map that turns a bus address into what it names (20_memory.md R62),
and the sampling of a command's fixed operands from the CSRs and memories (30_encoding.md R94, 43_control.md
R182). -/

namespace Sys2Proof.Machine

/-! ### Address map -/

/-- Region bases of the host window (20_memory.md R62). -/
abbrev pixelBase : Nat := 0x1000
/-- PAYLOAD_MEM (R62) -/
abbrev payloadBase : Nat := 0x2000
/-- PALETTE_MEM (R62) -/
abbrev paletteBase : Nat := 0x3000
/-- PACK_MEM (R62) -/
abbrev packBase : Nat := 0x3400
/-- INDEX_MEM (R62) -/
abbrev indexBase : Nat := 0x4000
/-- OUT_MEM (R62) -/
abbrev outBase : Nat := 0x8000

/-- Sizes of the byte memories, in bytes (10_state.md R52 to R54). -/
abbrev packSize : Nat := 1024
/-- PAYLOAD_MEM (R53) -/
abbrev payloadSize : Nat := 2048
/-- OUT_MEM (R54) -/
abbrev outSize : Nat := 8192

/-- The control and status registers (10_state.md R26). -/
inductive Csr where
  | id | ctrl | cmd | status | errCode | frameCmd | payloadLen | palCount | bitWidth | packLen | innerLen
  | checksum | outLen
  deriving DecidableEq, Repr

/-- What a word of the host window names (20_memory.md R62). -/
inductive Target where
  /-- a control or status register -/
  | csr (r : Csr)
  /-- PIXEL_MEM entry `p` -/
  | pixel (p : Nat)
  /-- PAYLOAD_MEM bytes `4k .. 4k+3` -/
  | payload (k : Nat)
  /-- PALETTE_MEM entry `i` -/
  | palette (i : Nat)
  /-- PACK_MEM bytes `4k .. 4k+3` -/
  | pack (k : Nat)
  /-- INDEX_MEM entry `p` -/
  | index (p : Nat)
  /-- OUT_MEM bytes `4k .. 4k+3` -/
  | out (k : Nat)
  /-- a reserved word: reads 0, ignores writes (R63, 10_state.md R48) -/
  | reserved
  deriving DecidableEq, Repr

/-- The register at a CSR word offset (10_state.md R26), given as offset / 4. -/
def csrOfWord : Nat → Option Csr
  | 0 => some .id
  | 1 => some .ctrl
  | 2 => some .cmd
  | 3 => some .status
  | 4 => some .errCode
  | 5 => some .frameCmd
  | 6 => some .payloadLen
  | 7 => some .palCount
  | 8 => some .bitWidth
  | 9 => some .packLen
  | 10 => some .innerLen
  | 11 => some .checksum
  | 12 => some .outLen
  | _ => none

/-- What word number `w = addr / 4` of the window names (20_memory.md R62). -/
def targetOfWord (w : Nat) : Target :=
  if w < 0x400 then
    match csrOfWord w with
    | some r => .csr r
    | none => .reserved
  else if w < 0x800 then .pixel (w - 0x400)
  else if w < 0xA00 then .payload (w - 0x800)
  else if w < 0xC00 then .reserved
  else if w < 0xD00 then .palette (w - 0xC00)
  else if w < 0xE00 then .pack (w - 0xD00)
  else if w < 0x1000 then .reserved
  else if w < 0x1400 then .index (w - 0x1000)
  else if w < 0x2000 then .reserved
  else if w < 0x2800 then .out (w - 0x2000)
  else .reserved

/-- Address bits 1:0 are not decoded: an access goes to the word at `addr & 0xFFFC` (20_memory.md R60). -/
def targetOf (addr : Addr) : Target := targetOfWord (addr.toNat / 4)

/-- A window byte address at which a memory entry keeps a byte: the three colour lanes of PIXEL_MEM and
PALETTE_MEM words, the index lane of INDEX_MEM words, and every byte of the byte memories. -/
def cellExists (a : Nat) : Bool :=
  match targetOfWord (a / 4) with
  | .pixel _ => decide (a % 4 < 3)
  | .payload _ => true
  | .palette _ => decide (a % 4 < 3)
  | .pack _ => true
  | .index _ => decide (a % 4 = 0)
  | .out _ => true
  | .csr _ => false
  | .reserved => false

/-! ### Little-endian lanes and colour words -/

/-- The word whose bits 7:0, 15:8, 23:16 and 31:24 are the four bytes (20_memory.md R64). -/
def wordOfBytes (b0 b1 b2 b3 : Byte) : Word := b3 ++ (b2 ++ (b1 ++ b0))

/-- Byte `j` of a word, bits 8j+7:8j (20_memory.md R64). -/
def byteOfWord (v : Word) (j : Nat) : Byte := v.extractLsb' (8 * j) 8

/-- The canonical colour of a word: alpha is dropped (10_state.md R25, 20_memory.md R66). -/
def colourOfWord (v : Word) : Colour := v.extractLsb' 0 24

/-- Red, bits 23:16 (10_state.md R25). -/
def red (c : Colour) : Byte := c.extractLsb' 16 8
/-- Green, bits 15:8 (10_state.md R25). -/
def green (c : Colour) : Byte := c.extractLsb' 8 8
/-- Blue, bits 7:0 (10_state.md R25). -/
def blue (c : Colour) : Byte := c.extractLsb' 0 8

/-! ### Sampling -/

/-- The byte a command samples at a window address. Every entry a command of a run samples holds a value; in
other states it is a free value (log 11). -/
def State.byteAt (s : State) (a : Nat) : Byte := (s.mem.read a).getD (Config.anyByte a s.draws)

/-- The colour a command samples at a window word. -/
def State.colourAt (s : State) (a : Nat) : Colour :=
  s.byteAt (a + 2) ++ (s.byteAt (a + 1) ++ s.byteAt a)

/-- PIXEL_MEM[0..1023] in scan order: ascending `p = 32·y + x`, which is row-major, left to right, top to
bottom (10_state.md R49, 40_quantizer.md R110). -/
def State.samplePixels (s : State) : List Colour :=
  (List.range Config.nPix).map (fun p => s.colourAt (pixelBase + 4 * p))

/-- INDEX_MEM[0..1023]. -/
def State.sampleIndices (s : State) : List Byte :=
  (List.range Config.nPix).map (fun p => s.byteAt (indexBase + 4 * p))

/-- PALETTE_MEM[0 .. PAL_COUNT-1]. -/
def State.samplePalette (s : State) : List Colour :=
  (List.range s.palCount.toNat).map (fun i => s.colourAt (paletteBase + 4 * i))

/-- PACK_MEM[0 .. PACK_LEN-1]. -/
def State.samplePacked (s : State) : List Byte :=
  (List.range s.packLen.toNat).map (fun b => s.byteAt (packBase + b))

/-- PAYLOAD_MEM[0 .. PAYLOAD_LEN-1]. -/
def State.samplePayload (s : State) : List Byte :=
  (List.range s.payloadLen.toNat).map (fun b => s.byteAt (payloadBase + b))

/-- The lowest PIXEL_MEM entry whose written-bit is 0 (70_reset_and_hazards.md R236; log 10). -/
def State.firstUnwrittenPixel (s : State) : Option Nat :=
  (List.range' 0 Config.nPix).find? (fun p => !s.mem.colourWritten (pixelBase + 4 * p))

/-- The lowest PAYLOAD_MEM byte below PAYLOAD_LEN whose written-bit is 0 (70_reset_and_hazards.md R236;
log 10). -/
def State.firstUnwrittenPayload (s : State) : Option Nat :=
  (List.range' 0 s.payloadLen.toNat).find? (fun b => !s.mem.byteWritten (payloadBase + b))

end Sys2Proof.Machine
end

