-- ==== Sys2Proof/Machine/Framer.lean ====
section
/-! DEFINITION. frame_encoder: the image payload and the generic frame as pure functions, and the commands
BUILD_PAYLOAD and FRAME (42_framer.md R150 to R170). -/

namespace Sys2Proof.Machine

/-- `le16(v)`, least significant byte first (00_scope.md R9, 20_memory.md R70). -/
def le16 (v : Nat) : List Byte := [BitVec.ofNat 8 (v % 256), BitVec.ofNat 8 (v >>> 8)]

/-! ### The image payload -/

/-- `SubHeader(N, L)`: 12 bytes with `len = 8 + L` and `colorCount = N` (42_framer.md R150 to R152,
90_conflicts.md C1). -/
def subHeader (n l : Nat) : List Byte :=
  [0x00, 0x0A, 0x0A, 0x04, 0xAA] ++ (le16 (Config.lenBias + l) ++ ([0x00, 0x00, 0x03] ++ le16 n))

/-- Three bytes a colour, R, G, B, in palette index order (42_framer.md R153, 20_memory.md R71). -/
def paletteBytes (p : List Colour) : List Byte := p.flatMap (fun c => [red c, green c, blue c])

/-- `ImagePayload(P, B)` (42_framer.md R153). -/
def imagePayload (p : List Colour) (b : List Byte) : List Byte :=
  subHeader p.length b.length ++ (paletteBytes p ++ b)

/-! ### The generic frame -/

/-- `innerLength = 1 + |payload| + 2` (42_framer.md R160). -/
def innerLength (payload : List Byte) : Nat := 1 + payload.length + 2

/-- What the checksum covers: innerLength, cmd, payload (42_framer.md R161). -/
def checkedBytes (cmd : Byte) (payload : List Byte) : List Byte :=
  le16 (innerLength payload) ++ (cmd :: payload)

/-- The sum of bytes, each as an unsigned value. -/
def byteSum (bs : List Byte) : Nat := (bs.map BitVec.toNat).sum

/-- The additive checksum mod 65536 (42_framer.md R162). -/
def frameChecksum (cmd : Byte) (payload : List Byte) : Nat := byteSum (checkedBytes cmd payload) % 65536

/-- The inner buffer: `[lenLSB, lenMSB, cmd, payload..., sumLSB, sumMSB]` (42_framer.md R161, 90_conflicts.md
C2). -/
def innerBuffer (cmd : Byte) (payload : List Byte) : List Byte :=
  checkedBytes cmd payload ++ le16 (frameChecksum cmd payload)

/-- The one or two bytes `Stuff` puts for a byte (42_framer.md R164). -/
def stuffByte (b : Byte) : List Byte :=
  if b = 0x01 then [Config.esc, 0x04]
  else if b = 0x02 then [Config.esc, 0x05]
  else if b = 0x03 then [Config.esc, 0x06]
  else [b]

/-- `Stuff(x)` (42_framer.md R164): each byte is looked at once, with its original value. -/
def stuffBytes (x : List Byte) : List Byte := x.flatMap stuffByte

/-- The byte an escape's second byte stands for, `none` outside {0x04, 0x05, 0x06} (42_framer.md R168, U7). -/
def unremap (b : Byte) : Option Byte :=
  if b = 0x04 then some 0x01
  else if b = 0x05 then some 0x02
  else if b = 0x06 then some 0x03
  else none

/-- `Unstuff`, left to right; `none` for a sequence that `Stuff` cannot produce (42_framer.md R168, U7). The
block has no such command; the function is the spec's own, for its round-trip property. -/
def unstuffBytes : List Byte → Option (List Byte)
  | [] => some []
  | [b] => if b = Config.esc then none else some [b]
  | b :: c :: rest =>
    if b = Config.esc then
      match unremap c, unstuffBytes rest with
      | some d, some r => some (d :: r)
      | _, _ => none
    else
      match unstuffBytes (c :: rest) with
      | some r => some (b :: r)
      | none => none

/-- The inner buffer as emitted: stuffed exactly when `stuff` (42_framer.md R165). -/
def frameBody (cmd : Byte) (payload : List Byte) (stuff : Bool) : List Byte :=
  if stuff then stuffBytes (innerBuffer cmd payload) else innerBuffer cmd payload

/-- `Frame(cmd, Y, s)`: delimiters around the body, themselves never stuffed (42_framer.md R161, R163). -/
def frameBytes (cmd : Byte) (payload : List Byte) (stuff : Bool) : List Byte :=
  Config.startDelim :: (frameBody cmd payload stuff ++ [Config.endDelim])

/-! ### BUILD_PAYLOAD -/

/-- The writes of an image payload: PAYLOAD_MEM[0 .. |Y|-1] with their written-bits, PAYLOAD_LEN, YVALID set
(42_framer.md R156). -/
def applyPayload (y : List Byte) (s : State) : State :=
  { s with
    mem := s.mem.storeBytes payloadBase payloadSize y
    payloadLen := BitVec.ofNat 16 y.length
    yvalid := true }

/-- BUILD_PAYLOAD at its completion tick (42_framer.md R156, 43_control.md R183). -/
def completeBuildPayload (palette : List Colour) (packed : List Byte) (s : State) : State :=
  (applyPayload (imagePayload palette packed) s).finish

/-- BUILD_PAYLOAD's checks at acceptance, in order: NOT_QUANTIZED, then NOT_PACKED (42_framer.md R156,
60_exceptions.md R202, R204). -/
def buildPayloadError (s : State) : Option ErrorCode :=
  if s.qvalid then if s.pvalid then none else some .notPacked else some .notQuantized

/-- BUILD_PAYLOAD at its CMD write (42_framer.md R156, 43_control.md R180). -/
def execBuildPayload (s : State) : Outcome :=
  issue (buildPayloadError s) none
    (.buildPayload s.samplePalette s.palCount s.samplePacked s.packLen s.qvalid s.pvalid) s

/-! ### FRAME -/

/-- The writes of a frame: OUT_MEM[0 .. |F|-1], OUT_LEN, INNER_LEN, CHECKSUM, FVALID set (42_framer.md R169). -/
def applyFrame (cmd : Byte) (payload : List Byte) (stuff : Bool) (s : State) : State :=
  { s with
    mem := s.mem.storeBytes outBase outSize (frameBytes cmd payload stuff)
    outLen := BitVec.ofNat 14 (frameBytes cmd payload stuff).length
    innerLen := BitVec.ofNat 16 (innerLength payload)
    checksum := BitVec.ofNat 16 (frameChecksum cmd payload)
    fvalid := true }

/-- FRAME at its completion tick (42_framer.md R169, 43_control.md R183). -/
def completeFrame (cmd : Byte) (payload : List Byte) (stuff : Bool) (s : State) : State :=
  (applyFrame cmd payload stuff s).finish

/-- FRAME's check at acceptance: PAYLOAD_RANGE while PAYLOAD_LEN > PAYLOAD_MAX (42_framer.md R169,
60_exceptions.md R202). -/
def frameError (s : State) : Option ErrorCode :=
  if Config.payloadMax < s.payloadLen.toNat then some .payloadRange else none

/-- FRAME at its CMD write (42_framer.md R169, 43_control.md R180): a model fault while a PAYLOAD_MEM byte below
PAYLOAD_LEN was never written (70_reset_and_hazards.md R236). -/
def execFrame (s : State) : Outcome :=
  issue (frameError s) (s.firstUnwrittenPayload.map (Fault.unwrittenPayload .frame))
    (.frame s.frameCmd s.payloadLen s.samplePayload s.stuff) s

end Sys2Proof.Machine
end

