-- ==== Sys2Proof/Machine/Packer.lean ====
section
/-! DEFINITION. index_packer: BitWidth, Pack, Unpack and the command PACK (41_packer.md R130 to R138). -/

namespace Sys2Proof.Machine

/-- The least `w'` among `w, w + 1, ...` with `n ≤ 2 ^ w'`, tried `fuel` times. -/
def bitWidthFrom : Nat → Nat → Nat → Nat
  | 0, w, _ => w
  | fuel + 1, w, n => if n ≤ 2 ^ w then w else bitWidthFrom fuel (w + 1) n

/-- `BitWidth(N)`, the least `w ≥ 1` such that `N ≤ 2 ^ w` (41_packer.md R131). -/
def bitWidthOf (n : Nat) : Nat := bitWidthFrom n 1 n

/-- `count` turns of the loop that emits the accumulator's low byte and shifts it right by 8 (41_packer.md
R133). -/
def emitBytes : Nat → Nat → List Byte
  | 0, _ => []
  | count + 1, acc => BitVec.ofNat 8 acc :: emitBytes count (acc >>> 8)

/-- The accumulator loop of `Pack(I, w)` from accumulator `acc` holding `cnt` bits: each index, masked to `w`
bits, is OR-ed in at the current bit offset; while 8 bits are held (`cnt / 8` times) a byte is emitted; a last
partial byte is zero-filled (41_packer.md R130, R133). -/
def packGo (w : Nat) : List Nat → Nat → Nat → List Byte
  | [], acc, cnt => if 0 < cnt then [BitVec.ofNat 8 acc] else []
  | i :: is, acc, cnt =>
    let acc' := acc ||| ((i &&& (2 ^ w - 1)) <<< cnt)
    let cnt' := cnt + w
    emitBytes (cnt' / 8) acc' ++ packGo w is (acc' >>> (8 * (cnt' / 8))) (cnt' % 8)

/-- `Pack(I, w)` (41_packer.md R133). -/
def packIndices (indices : List Nat) (w : Nat) : List Byte := packGo w indices 0 0

/-- Stream bit `k` of packed bytes: bit `k mod 8` of byte `k div 8` (41_packer.md R134, R136). -/
def streamBit (b : List Byte) (k : Nat) : Bool := ((b[k / 8]?).getD 0).getLsbD (k % 8)

/-- The number whose bit `j`, for `j < w`, is `bit j`. -/
def natOfBits (bit : Nat → Bool) : Nat → Nat
  | 0 => 0
  | w + 1 => natOfBits bit w + (bit w).toNat * 2 ^ w

/-- `Unpack(B, w, n)`: entry `p` is `Σ_{j<w} bit(w·p + j) · 2^j` (41_packer.md R136). The block has no unpack
command; the function is the spec's own, for its round-trip property. -/
def unpack (b : List Byte) (w n : Nat) : List Nat :=
  (List.range n).map (fun p => natOfBits (fun j => streamBit b (w * p + j)) w)

/-- The packed bytes of INDEX_MEM entries (41_packer.md R138). -/
def packBytes (indices : List Byte) (palCount : BitVec 9) : List Byte :=
  packIndices (indices.map BitVec.toNat) (bitWidthOf palCount.toNat)

/-- The writes of a packing: PACK_MEM[0 .. |B|-1], BIT_WIDTH, PACK_LEN, PVALID set, YVALID cleared
(41_packer.md R138). -/
def applyPacked (w : Nat) (b : List Byte) (s : State) : State :=
  { s with
    mem := s.mem.storeBytes packBase packSize b
    bitWidth := BitVec.ofNat 4 w
    packLen := BitVec.ofNat 11 b.length
    pvalid := true
    yvalid := false }

/-- PACK at its completion tick (41_packer.md R138, 43_control.md R183). -/
def completePack (indices : List Byte) (palCount : BitVec 9) (s : State) : State :=
  (applyPacked (bitWidthOf palCount.toNat) (packBytes indices palCount) s).finish

/-- PACK's check at acceptance: NOT_QUANTIZED while QVALID = 0 (41_packer.md R138, 60_exceptions.md R202). -/
def packError (s : State) : Option ErrorCode := if s.qvalid then none else some .notQuantized

/-- PACK at its CMD write (41_packer.md R138, 43_control.md R180). -/
def execPack (s : State) : Outcome :=
  issue (packError s) none (.pack s.sampleIndices s.palCount s.qvalid) s

end Sys2Proof.Machine
end

