-- ==== Sys2Proof/Machine/Quantizer.lean ====
section
/-! DEFINITION. palette_quantizer: the pure functions Scan, Reduce and Quantize, and the command QUANTIZE
(40_quantizer.md R110 to R119). -/

namespace Sys2Proof.Machine

/-- One pixel of `Scan`: a colour not yet in the palette is appended to it; the pixel's index is the
colour's place in the palette (40_quantizer.md R111). The map M of R111 is the place of a colour in P. -/
def scanStep (st : List Colour × List Nat) (c : Colour) : List Colour × List Nat :=
  if c ∈ st.1 then (st.1, st.2 ++ [st.1.idxOf c]) else (st.1 ++ [c], st.2 ++ [st.1.length])

/-- `Scan(g)`: the palette in first-seen order and the index of every colour of `g` (40_quantizer.md R111). -/
def scan (g : List Colour) : List Colour × List Nat := g.foldl scanStep ([], [])

/-- `Reduce(c) = c & 0xE0E0C0`, in place (40_quantizer.md R112, D6). -/
def reduce (c : Colour) : Colour := c &&& Config.reduceMask

/-- The result of `Quantize`: palette, indices and whether the reduction was taken (40_quantizer.md R113). -/
structure Quantized where
  palette : List Colour
  indices : List Nat
  reduced : Bool
  deriving DecidableEq, Repr

/-- `Quantize(g)`: a palette of more than PAL_MAX colours is discarded, and the reduced grid is scanned afresh
(40_quantizer.md R113). -/
def quantizeGrid (g : List Colour) : Quantized :=
  if Config.palMax < (scan g).1.length then
    { palette := (scan (g.map reduce)).1, indices := (scan (g.map reduce)).2, reduced := true }
  else { palette := (scan g).1, indices := (scan g).2, reduced := false }

/-- The 8-bit INDEX_MEM entries of the indices (10_state.md R51). -/
def indexBytes (indices : List Nat) : List Byte := indices.map (BitVec.ofNat 8)

/-- PALETTE_MEM holds the palette, and its entries from |P| up are unspecified (40_quantizer.md R116, R117). -/
def Memory.storePalette (m : Memory) (p : List Colour) : Memory :=
  m.replace paletteBase (paletteBase + 1024) (colourCells paletteBase (p.take 256))

/-- INDEX_MEM[0..1023] holds the indices (40_quantizer.md R116). -/
def Memory.storeIndices (m : Memory) (i : List Byte) : Memory :=
  m.replace indexBase (indexBase + 4096) (indexCells indexBase (i.take 1024))

/-- The writes of a quantization: PALETTE_MEM, INDEX_MEM, PAL_COUNT, REDUCED, QVALID set, PVALID and YVALID
cleared (40_quantizer.md R116). -/
def applyQuantized (q : Quantized) (s : State) : State :=
  { s with
    mem := (s.mem.storePalette q.palette).storeIndices (indexBytes q.indices)
    palCount := BitVec.ofNat 9 q.palette.length
    reduced := q.reduced
    qvalid := true
    pvalid := false
    yvalid := false }

/-- QUANTIZE at its completion tick (40_quantizer.md R116, 43_control.md R183). PIXEL_MEM is not changed
(R118). -/
def completeQuantize (pixels : List Colour) (s : State) : State :=
  (applyQuantized (quantizeGrid pixels) s).finish

/-- QUANTIZE at its CMD write: it has no error of its own (40_quantizer.md R116); it is a model fault while a
PIXEL_MEM entry was never written (70_reset_and_hazards.md R236). -/
def execQuantize (s : State) : Outcome :=
  issue none (s.firstUnwrittenPixel.map (Fault.unwrittenPixel .quantize)) (.quantize s.samplePixels) s

end Sys2Proof.Machine
end

