-- ==== Sys2Proof/Machine/Control.lean ====
section
/-! DEFINITION. The control commands NOP, ENCODE and SOFT_RESET (43_control.md R185 to R187). -/

namespace Sys2Proof.Machine

/-- NOP at its completion tick: `STATUS.DONE <- 1` (43_control.md R185). -/
def completeNop (s : State) : State := s.finish

/-- NOP at its CMD write: it goes through BUSY like every other accepted command (43_control.md R185). -/
def execNop (s : State) : Outcome := issue none none .nop s

/-- The packed bytes of a quantization (43_control.md R186). -/
def encodePacked (q : Quantized) : List Byte := packIndices q.indices (bitWidthOf q.palette.length)

/-- The image payload of a quantization (43_control.md R186). -/
def encodePayload (q : Quantized) : List Byte := imagePayload q.palette (encodePacked q)

/-- The writes of the whole pipeline, in pipeline order: the union of the writes of QUANTIZE, PACK,
BUILD_PAYLOAD and FRAME with IMAGE_CMD, so that PVALID and YVALID end set (43_control.md R186). -/
def applyEncoded (q : Quantized) (stuff : Bool) (s : State) : State :=
  applyFrame Config.imageCmd (encodePayload q) stuff
    (applyPayload (encodePayload q)
      (applyPacked (bitWidthOf q.palette.length) (encodePacked q) (applyQuantized q s)))

/-- ENCODE at its completion tick (43_control.md R186, R183). FRAME_CMD is neither read nor changed. -/
def completeEncode (pixels : List Colour) (stuff : Bool) (s : State) : State :=
  (applyEncoded (quantizeGrid pixels) stuff s).finish

/-- ENCODE at its CMD write: no check beyond R180 (43_control.md R186); a model fault while a PIXEL_MEM entry
was never written (70_reset_and_hazards.md R236). -/
def execEncode (s : State) : Outcome :=
  issue none (s.firstUnwrittenPixel.map (Fault.unwrittenPixel .encode)) (.encode s.samplePixels s.stuff) s

/-- SOFT_RESET, in the step of the CMD write itself: every CSR field takes its reset value; SEQ, memories and
written-bits stay; while busy it is rejected with CMD_WHILE_BUSY and resets nothing (43_control.md R187). -/
def execSoftReset (s : State) : Outcome :=
  if s.busy then .next (raiseError .cmdWhileBusy s) else .next (resetCsrs s)

end Sys2Proof.Machine
end

