-- ==== Sys2Proof/Machine/Dispatch.lean ====
section
/-! DEFINITION. A command of the block takes effect at its CMD write: one arm per constructor of Instr. -/

namespace Sys2Proof.Machine

def exec (i : Instr) (s : State) : Host.Outcome State Fault Refusal :=
  match i with
  -- 43_control.md R185
  | .nop => Sys2Proof.Machine.execNop s
  -- 40_quantizer.md R116
  | .quantize => Sys2Proof.Machine.execQuantize s
  -- 41_packer.md R138
  | .pack => Sys2Proof.Machine.execPack s
  -- 42_framer.md R156
  | .buildPayload => Sys2Proof.Machine.execBuildPayload s
  -- 42_framer.md R169
  | .frame => Sys2Proof.Machine.execFrame s
  -- 43_control.md R186
  | .encode => Sys2Proof.Machine.execEncode s
  -- 43_control.md R187
  | .softReset => Sys2Proof.Machine.execSoftReset s

end Sys2Proof.Machine
end

