-- ==== Sys2Proof/Machine/Sequencer.lean ====
section
/-! DEFINITION. The sequencer agent: completion and ticks (43_control.md R183, R184), and the write set of a
running command (R188, 30_encoding.md R94). -/

namespace Sys2Proof.Machine

/-- `complete(op)`: the command's pseudocode on its snapshot, in one step (43_control.md R183). -/
def complete (snap : Snapshot) (s : State) : State :=
  match snap with
  | .nop => completeNop s
  | .quantize pixels => completeQuantize pixels s
  | .pack indices palCount _ => completePack indices palCount s
  | .buildPayload palette _ packed _ _ _ => completeBuildPayload palette packed s
  | .frame cmd _ payload stuff => completeFrame cmd payload stuff s
  | .encode pixels stuff => completeEncode pixels stuff s

/-- One tick of the sequencer: `k` drops by one, and the tick that brings it to 0 is the completion
(43_control.md R184). While SEQ is IDLE the block does nothing (60_exceptions.md R216). A `k` of 0, which no
run reaches, completes as well (log 18). -/
def tick (s : State) : State :=
  match s.seq with
  | .idle => s
  | .run snap k => if k ≤ 1 then complete snap s else { s with seq := .run snap (k - 1) }

/-! ### Write sets -/

/-- The CSRs, STATUS apart, in a command's write set (30_encoding.md R94, 43_control.md R188). -/
def Snapshot.writesCsr (snap : Snapshot) (r : Csr) : Bool :=
  match snap, r with
  | .quantize _, .palCount => true
  | .pack _ _ _, .bitWidth => true
  | .pack _ _ _, .packLen => true
  | .buildPayload _ _ _ _ _ _, .payloadLen => true
  | .frame _ _ _ _, .outLen => true
  | .frame _ _ _ _, .innerLen => true
  | .frame _ _ _ _, .checksum => true
  | .encode _ _, .palCount => true
  | .encode _ _, .bitWidth => true
  | .encode _ _, .packLen => true
  | .encode _ _, .payloadLen => true
  | .encode _ _, .outLen => true
  | .encode _ _, .innerLen => true
  | .encode _ _, .checksum => true
  | _, _ => false

/-- The STATUS bits in a command's write set, DONE apart, which always reads exactly (30_encoding.md R94,
20_memory.md R73): REDUCED, QVALID, PVALID, YVALID for QUANTIZE; PVALID, YVALID for PACK; YVALID for
BUILD_PAYLOAD; FVALID for FRAME; all five for ENCODE. -/
def Snapshot.statusMask : Snapshot → Word
  | .nop => 0
  | .quantize _ => 0xB8
  | .pack _ _ _ => 0x30
  | .buildPayload _ _ _ _ _ _ => 0x20
  | .frame _ _ _ _ => 0x40
  | .encode _ _ => 0xF8

/-- Whether all of PALETTE_MEM and INDEX_MEM is in a command's write set (43_control.md R188). -/
def Snapshot.writesImage : Snapshot → Bool
  | .quantize _ => true
  | .encode _ _ => true
  | _ => false

/-- The bytes of PACK_MEM in a command's write set: 0 .. PACK_LEN-1 at the new length (43_control.md R188). -/
def Snapshot.newPackLen : Snapshot → Nat
  | .pack indices palCount _ => (packBytes indices palCount).length
  | .encode pixels _ => (encodePacked (quantizeGrid pixels)).length
  | _ => 0

/-- The bytes of PAYLOAD_MEM in a command's write set, at the new length (43_control.md R188). -/
def Snapshot.newPayloadLen : Snapshot → Nat
  | .buildPayload palette _ packed _ _ _ => (imagePayload palette packed).length
  | .encode pixels _ => (encodePayload (quantizeGrid pixels)).length
  | _ => 0

/-- The bytes of OUT_MEM in a command's write set, at the new length (43_control.md R188). -/
def Snapshot.newOutLen : Snapshot → Nat
  | .frame cmd _ payload stuff => (frameBytes cmd payload stuff).length
  | .encode pixels stuff => (frameBytes Config.imageCmd (encodePayload (quantizeGrid pixels)) stuff).length
  | _ => 0

end Sys2Proof.Machine
end

