-- ==== Sys2Proof/Machine/Bus.lean ====
section
/-! DEFINITION. The host bus: MemRead and MemWrite (20_memory.md R60 to R83), the presentation of a command
word (43_control.md R180), and one turn of an agent (10_state.md R22). -/

namespace Sys2Proof.Machine

/-! ### Reads -/

/-- What a read finds: the bits that are defined, and a mask of the bits that are unspecified (20_memory.md
R69, R73). `value` is 0 where `free` is 1. -/
structure Reading where
  value : Word
  free : Word
  deriving DecidableEq, Repr

/-- A reading all of whose bits are defined. -/
def exactly (v : Word) : Reading := { value := v, free := 0 }

/-- A reading whose bits in `mask` are unspecified where `unspecified` holds. -/
def masked (v mask : Word) (unspecified : Bool) : Reading :=
  if unspecified then { value := v &&& ~~~mask, free := mask } else exactly v

/-- The word a reading returns: `drawn` in its unspecified bits (93_implementation_defined.md U1 to U4). -/
def Reading.resolve (r : Reading) (drawn : Word) : Word := r.value ||| (drawn &&& r.free)

/-- The bits of a CSR's field; the rest are reserved and read 0 (10_state.md R24, R39 to R47). -/
def csrFieldMask : Csr → Word
  | .id => 0xFFFFFFFF
  | .ctrl => 0x3
  | .cmd => 0
  | .status => 0xFF
  | .errCode => 0xF
  | .frameCmd => 0xFF
  | .payloadLen => 0xFFFF
  | .palCount => 0x1FF
  | .bitWidth => 0xF
  | .packLen => 0x7FF
  | .innerLen => 0xFFFF
  | .checksum => 0xFFFF
  | .outLen => 0x3FFF

/-- The value of a CSR (10_state.md R27 to R47). CMD reads 0 (R29). -/
def State.csrWord (s : State) : Csr → Word
  | .id => Config.idValue
  | .ctrl => s.ctrlWord
  | .cmd => 0
  | .status => s.statusWord
  | .errCode => s.errCode.setWidth 32
  | .frameCmd => s.frameCmd.setWidth 32
  | .payloadLen => s.payloadLen.setWidth 32
  | .palCount => s.palCount.setWidth 32
  | .bitWidth => s.bitWidth.setWidth 32
  | .packLen => s.packLen.setWidth 32
  | .innerLen => s.innerLen.setWidth 32
  | .checksum => s.checksum.setWidth 32
  | .outLen => s.outLen.setWidth 32

/-- Reading a CSR: a register, or a STATUS field, in the running command's write set is unspecified
(20_memory.md R73); its reserved bits still read 0 (10_state.md R24, log 7). -/
def State.readCsr (s : State) (r : Csr) : Reading :=
  match s.running with
  | none => exactly (s.csrWord r)
  | some snap =>
    match r with
    | .status => masked s.statusWord snap.statusMask true
    | _ => masked (s.csrWord r) (csrFieldMask r) (snap.writesCsr r)

/-- The bytes of a byte memory in the running command's write set, from 0 up (43_control.md R188). -/
def State.pendingLen (s : State) (newLen : Snapshot → Nat) : Nat :=
  match s.running with
  | none => 0
  | some snap => newLen snap

/-- Whether all of PALETTE_MEM and INDEX_MEM is in the running command's write set (43_control.md R188). -/
def State.imagePending (s : State) : Bool :=
  match s.running with
  | none => false
  | some snap => snap.writesImage

/-- Whether byte `b` of the byte memory at `base` is unspecified to a host read: nothing holds a value there
(U1), it lies at or beyond the valid length (20_memory.md R69, U3; log 16), or the running command writes it
(R73, U4). -/
def State.byteOpen (s : State) (base validLen pending b : Nat) : Bool :=
  !s.mem.byteWritten (base + b) || decide (validLen ≤ b) || decide (b < pending)

/-- The byte a host read finds, and its mask of unspecified bits. -/
def State.readByte (s : State) (base validLen pending b : Nat) : Byte × Byte :=
  if s.byteOpen base validLen pending b then (0, 0xFF) else ((s.mem.read (base + b)).getD 0, 0)

/-- Word `k` of a byte memory, in little-endian lanes (20_memory.md R64). -/
def State.readBytes (s : State) (base validLen pending k : Nat) : Reading :=
  let b0 := s.readByte base validLen pending (4 * k)
  let b1 := s.readByte base validLen pending (4 * k + 1)
  let b2 := s.readByte base validLen pending (4 * k + 2)
  let b3 := s.readByte base validLen pending (4 * k + 3)
  { value := wordOfBytes b0.1 b1.1 b2.1 b3.1, free := wordOfBytes b0.2 b1.2 b2.2 b3.2 }

/-- A colour entry, bits 31:24 read 0 (10_state.md R25, 20_memory.md R66, R68); unspecified where it holds no
value (U1, U2) or `unspecified` holds. -/
def State.readColour (s : State) (a : Nat) (unspecified : Bool) : Reading :=
  masked ((s.colourAt a).setWidth 32) 0x00FFFFFF (!s.mem.colourWritten a || unspecified)

/-- An INDEX_MEM entry, bits 31:8 read 0 (20_memory.md R62, R68). -/
def State.readIndex (s : State) (a : Nat) (unspecified : Bool) : Reading :=
  masked ((s.byteAt a).setWidth 32) 0x000000FF (!s.mem.byteWritten a || unspecified)

/-- What a read of a window word finds (20_memory.md R62 to R69, R73). -/
def State.readTarget (s : State) : Target → Reading
  | .csr r => s.readCsr r
  | .pixel p => s.readColour (pixelBase + 4 * p) false
  | .payload k => s.readBytes payloadBase s.payloadLen.toNat (s.pendingLen Snapshot.newPayloadLen) k
  | .palette i => s.readColour (paletteBase + 4 * i) (decide (s.palCount.toNat ≤ i) || s.imagePending)
  | .pack k => s.readBytes packBase s.packLen.toNat (s.pendingLen Snapshot.newPackLen) k
  | .index p => s.readIndex (indexBase + 4 * p) s.imagePending
  | .out k => s.readBytes outBase s.outLen.toNat (s.pendingLen Snapshot.newOutLen) k
  | .reserved => exactly 0

/-- `MemRead(addr, 4)` goes to the word at `addr & 0xFFFC` (20_memory.md R60). -/
def State.memRead (s : State) (addr : Addr) : Word :=
  (s.readTarget (targetOf addr)).resolve (Config.anyWord (addr &&& 0xFFFC) s.draws)

/-- A host read: the word appears on the read-data port, and a fresh value stands ready for the next read.
Reads have no other effect (20_memory.md R74). -/
def hostRead (addr : Addr) (s : State) : State :=
  { s with rdata := s.memRead addr, draws := s.draws + 1 }

/-! ### Writes -/

/-- A write to one of the targets that a busy block drops (20_memory.md R82): while BUSY = 1 the target is
unchanged and WRITE_WHILE_BUSY is recorded. -/
def unlessBusy (write : State → State) (s : State) : State :=
  if s.busy then raiseError .writeWhileBusy s else write s

/-- A host write to CTRL (10_state.md R28). -/
def State.writeCtrl (v : Word) (s : State) : State :=
  { s with stuff := v.getLsbD 0, irqEn := v.getLsbD 1 }

/-- A host write to FRAME_CMD (10_state.md R40). -/
def State.writeFrameCmd (v : Word) (s : State) : State := { s with frameCmd := v.extractLsb' 0 8 }

/-- A host write to PAYLOAD_LEN stores v[15:0], whatever its size, and clears YVALID (10_state.md R41,
20_memory.md R83). -/
def State.writePayloadLen (v : Word) (s : State) : State :=
  State.invalidatePayload { s with payloadLen := v.extractLsb' 0 16 }

/-- A host write to PIXEL_MEM[p]: v[23:0] is stored, its written-bit set, the image flags cleared
(20_memory.md R66, R83). -/
def State.writePixel (p : Nat) (v : Word) (s : State) : State :=
  State.invalidateImage
    { s with
      mem := s.mem.replace (pixelBase + 4 * p) (pixelBase + 4 * p + 4)
        (colourCells (pixelBase + 4 * p) [colourOfWord v]) }

/-- A host write to PAYLOAD_MEM bytes 4k .. 4k+3: the four lanes are stored, their written-bits set, YVALID
cleared (20_memory.md R64, R67, R83). -/
def State.writePayload (k : Nat) (v : Word) (s : State) : State :=
  State.invalidatePayload
    { s with
      mem := s.mem.replace (payloadBase + 4 * k) (payloadBase + 4 * k + 4)
        (byteCells (payloadBase + 4 * k) [byteOfWord v 0, byteOfWord v 1, byteOfWord v 2, byteOfWord v 3]) }

/-- A host write to anything but CMD (20_memory.md R63, R66, R67, R82). Read-only registers, read-only
memories and reserved words ignore it, with no error, even while busy. -/
def writeTarget (t : Target) (v : Word) (s : State) : State :=
  match t with
  | .csr .ctrl => unlessBusy (State.writeCtrl v) s
  | .csr .frameCmd => unlessBusy (State.writeFrameCmd v) s
  | .csr .payloadLen => unlessBusy (State.writePayloadLen v) s
  | .csr .status => s.writeStatus v
  | .pixel p => unlessBusy (State.writePixel p v) s
  | .payload k => unlessBusy (State.writePayload k v) s
  | _ => s

/-- A word that is no command: CMD_WHILE_BUSY comes first, else ILLEGAL_CMD (43_control.md R180,
60_exceptions.md R204, 30_encoding.md R92, R93). -/
def rejectWord (s : State) : State :=
  if s.busy then raiseError .cmdWhileBusy s else raiseError .illegalCmd s

/-- A host write of `v` to CMD presents `v` to the command decoder (10_state.md R29, 43_control.md R180). -/
def presentCommand (v : Word) (s : State) : Outcome :=
  match decodeWord v with
  | .ok i => exec i s
  | .error _ => .next (rejectWord s)

/-- `MemWrite(addr, 4, v)` (20_memory.md R60, R74). -/
def hostWrite (addr : Addr) (v : Word) (s : State) : Outcome :=
  if targetOf addr = .csr .cmd then presentCommand v s else .next (writeTarget (targetOf addr) v s)

/-! ### Turns -/

/-- One turn of one agent (10_state.md R22, 20_memory.md R61). -/
def takeTurn (t : Turn) (s : State) : Outcome :=
  match t with
  | .read addr => .next (hostRead addr s)
  | .write addr v => hostWrite addr v s
  | .tick => .next (tick s)
  | .reset => .next (hardwareReset s)

/-- The byte address of CMD (10_state.md R26). -/
abbrev cmdAddr : Addr := 0x0008

/-- A host write of the command word `w` to CMD. -/
def commandTurn (w : Word) : Turn := .write cmdAddr w

end Sys2Proof.Machine
end

