-- ==== Sys2Proof/Machine/Step.lean ====
section
/-! DEFINITION. One step of the machine: the next turn of an agent. -/

namespace Sys2Proof.Machine

/-- The first of the turns to come is taken. With none to come the sequencer ticks, so that every pending tick
happens (43_control.md R184); an idle block then does nothing (60_exceptions.md R216; log 13). -/
def step (s : State) : Host.Outcome State Fault Refusal :=
  match s.turns with
  | [] => .next (tick s)
  | t :: rest => takeTurn t { s with turns := rest }

/-- The state in which the next turn is the host's write of the command word to CMD, which is how the block
takes an instruction (10_state.md R21, R29, 20_memory.md R78; log 1). -/
def State.withFetchWord (s : State) (nbits w : Nat) : State :=
  { s with turns := commandTurn (BitVec.ofNat 32 (w % 2 ^ nbits)) :: s.turns }

end Sys2Proof.Machine
end

