-- ==== Sys2Proof/Machine/HostProgram.lean ====
section
/-! DEFINITION. The host's program notation over the machine (30_encoding.md R97, R98), the run of a program
under a schedule of the two agents, its end (70_reset_and_hazards.md R243), and reading a frame out (R99). -/

namespace Sys2Proof.Machine

/-- The statements of a host program (30_encoding.md R97). -/
inductive Stmt where
  /-- `WR off, val` -/
  | wr (off : Addr) (val : Word)
  /-- `RD off -> name` -/
  | rd (off : Addr) (name : String)
  /-- `POLL off, mask, val` -/
  | poll (off : Addr) (mask val : Word)
  deriving DecidableEq, Repr

/-- `CMD mnemonic` is `WR 0x0008, word` (30_encoding.md R97). -/
def cmdStmt (i : Instr) : Stmt := .wr cmdAddr (encode i)

/-- `WAIT`: wait for BUSY = 0 (30_encoding.md R98). -/
def waitStmts : List Stmt := [.poll 0x000C 1 0]

/-- `RUN mnemonic` (30_encoding.md R98). -/
def runStmts (i : Instr) : List Stmt := cmdStmt i :: waitStmts

/-- `ACK`: clear DONE and ERR (30_encoding.md R98). -/
def ackStmt : Stmt := .wr 0x000C 6

/-- `SETPIX p, c` (30_encoding.md R98). -/
def setPixStmt (p : Nat) (c : Word) : Stmt := .wr (BitVec.ofNat 16 (pixelBase + 4 * p)) c

/-- `FILL c`: `SETPIX p, c` for p = 0 .. 1023 (30_encoding.md R98). -/
def fillStmts (c : Word) : List Stmt := (List.range Config.nPix).map (fun p => setPixStmt p c)

/-- `SETSTUFF s` writes `(CTRL & 0x2) | s`; `ctrl` is the CTRL value the host computes with (30_encoding.md
R98). -/
def setStuffStmt (ctrl : Word) (stuff : Bool) : Stmt := .wr 0x0004 ((ctrl &&& 2) ||| bitAt 0 stuff)

/-- A host program under way: the block, the statements left, and the values read so far, newest first. -/
structure HostRun where
  block : State
  prog : List Stmt
  vars : List (String × Word)
  deriving DecidableEq, Repr

/-- The two agents of a run (10_state.md R22). -/
inductive Agent where
  | host
  | sequencer
  deriving DecidableEq, Repr

/-- One bus access of the host, through the machine's step. -/
def hostAccess (t : Turn) (s : State) : Outcome := step { s with turns := [t] }

/-- The next statement takes one bus access: a POLL stays until what it read, masked, is its value
(30_encoding.md R97). A program without statements left does nothing. -/
def HostRun.hostTurn (h : HostRun) : Host.Outcome HostRun Fault Refusal :=
  match h.prog with
  | [] => .next h
  | .wr off val :: rest =>
    match hostAccess (.write off val) h.block with
    | .next s => .next { h with block := s, prog := rest }
    | .fault r => .fault r
    | .refused r => .refused r
  | .rd off name :: rest =>
    match hostAccess (.read off) h.block with
    | .next s => .next { block := s, prog := rest, vars := (name, s.rdata) :: h.vars }
    | .fault r => .fault r
    | .refused r => .refused r
  | .poll off mask val :: rest =>
    match hostAccess (.read off) h.block with
    | .next s =>
      if s.rdata &&& mask = val then .next { h with block := s, prog := rest }
      else .next { h with block := s }
    | .fault r => .fault r
    | .refused r => .refused r

/-- One turn of the scheduled agent. -/
def HostRun.turn (a : Agent) (h : HostRun) : Host.Outcome HostRun Fault Refusal :=
  match a with
  | .host => h.hostTurn
  | .sequencer =>
    match hostAccess .tick h.block with
    | .next s => .next { h with block := s }
    | .fault r => .fault r
    | .refused r => .refused r

/-- A program under a schedule: a claim about the program is one for every schedule (43_control.md R184). -/
def HostRun.runSchedule : List Agent → HostRun → Host.Outcome HostRun Fault Refusal
  | [], h => .next h
  | a :: rest, h =>
    match h.turn a with
    | .next h' => HostRun.runSchedule rest h'
    | .fault r => .fault r
    | .refused r => .refused r

/-- A program has run to its end when its last statement has completed and SEQ = IDLE
(70_reset_and_hazards.md R243). -/
def HostRun.ended (h : HostRun) : Bool := h.prog.isEmpty && !h.block.busy

/-! ### Reading a frame out (30_encoding.md R99) -/

/-- Bus reads of the given addresses, in order, and the words they return. -/
def readWords : List Addr → State → List Word × State
  | [], s => ([], s)
  | a :: rest, s =>
    let s' := hostRead a s
    (s'.rdata :: (readWords rest s').1, (readWords rest s').2)

/-- The four bytes of a word, in lane order (20_memory.md R64). -/
def bytesOfWord (v : Word) : List Byte := [byteOfWord v 0, byteOfWord v 1, byteOfWord v 2, byteOfWord v 3]

/-- The frame the host reads out: `n = OUT_LEN[13:0]`, then `ceil(n/4)` words from 0x8000 up, then their first
`n` bytes (30_encoding.md R99). -/
def readFrameOut (s : State) : List Byte :=
  let s' := hostRead 0x0030 s
  let n := (s'.rdata.extractLsb' 0 14).toNat
  let addrs := (List.range ((n + 3) / 4)).map (fun k => BitVec.ofNat 16 (outBase + 4 * k))
  ((readWords addrs s').1.flatMap bytesOfWord).take n

end Sys2Proof.Machine
end

