-- ==== Sys2Proof/Safety.lean ====
section
/-! DEFINITION. What a run of the block must keep, in the terms the statements use: written inputs
(70_reset_and_hazards.md R236), how a command runs to its end, and the invariants: the memory's form, ERR_CODE
(10_state.md R39), and that the valid flags mean what they say (10_state.md R34 to R37). -/

namespace Sys2Proof.Machine

/-! ### Inputs and results in memory -/

/-- The colour entry held at a window word, `none` where it holds no defined value. -/
def Memory.colour? (m : Memory) (a : Nat) : Option Colour :=
  match m.read a, m.read (a + 1), m.read (a + 2) with
  | some b, some g, some r => some (r ++ (g ++ b))
  | _, _, _ => none

/-- Every PIXEL_MEM entry was written since hardware reset (70_reset_and_hazards.md R236, R235). -/
def State.PixelsWritten (s : State) : Prop :=
  ∀ p < Config.nPix, s.mem.colourWritten (pixelBase + 4 * p) = true

/-- Every PAYLOAD_MEM byte below PAYLOAD_LEN was written since hardware reset (R236). -/
def State.PayloadWritten (s : State) : Prop :=
  ∀ b < s.payloadLen.toNat, s.mem.byteWritten (payloadBase + b) = true

/-- The bytes from `base` up are exactly `bs`, as far as `bs` goes. -/
def Memory.HoldsBytes (m : Memory) (base : Nat) (bs : List Byte) : Prop :=
  ∀ b < bs.length, m.read (base + b) = bs[b]?

/-- The colour entries, one a word, from `base` up are exactly `cs`, as far as `cs` goes. -/
def Memory.HoldsColours (m : Memory) (base : Nat) (cs : List Colour) : Prop :=
  ∀ i < cs.length, m.colour? (base + 4 * i) = cs[i]?

/-- The byte entries, one a word, from `base` up are exactly `bs`, as far as `bs` goes. -/
def Memory.HoldsEntries (m : Memory) (base : Nat) (bs : List Byte) : Prop :=
  ∀ p < bs.length, m.read (base + 4 * p) = bs[p]?

/-- Two memories agree at every window address outside `lo ≤ a < hi`. -/
def Memory.SameOutside (m m' : Memory) (lo hi : Nat) : Prop :=
  ∀ a, ¬(lo ≤ a ∧ a < hi) → m'.read a = m.read a

/-! ### A command's run -/

/-- From `t` the machine, taking no turn but the sequencer's, is busy before each of the first `k` steps and
answers `u` after them (43_control.md R183, R184). -/
def TicksTo (k : Nat) (t u : State) : Prop :=
  (∀ j < k, ∃ v : State, Sys2Proof.core.run j t = .next v ∧ v.busy = true) ∧ Sys2Proof.core.run k t = .next u

/-- Issued in `s`, the command is accepted and, undisturbed, completes with `u` (43_control.md R180, R183). -/
def Completes (i : Instr) (s u : State) : Prop :=
  ∃ k t, 1 ≤ k ∧ exec i s = .next t ∧ TicksTo k t u

/-- An idle block with no turn waiting: what a host that has polled BUSY = 0 faces. -/
def State.Ready (s : State) : Prop := s.seq = .idle ∧ s.turns = []

/-- `s` has run to an end: no turn is waiting and SEQ = IDLE (70_reset_and_hazards.md R243). -/
def State.Ended (s : State) : Prop := s.turns = [] ∧ s.seq = .idle

/-! ### Invariants -/

/-- The memory is in canonical form, and only addresses at which a memory entry keeps a byte are listed
(20_memory.md R62). -/
def State.MemoryInv (s : State) : Prop := s.mem.wf ∧ ∀ c ∈ s.mem, cellExists c.1 = true

/-- ERR_CODE is 0 exactly while ERR = 0, and only codes 0 to 6 appear (10_state.md R39, 60_exceptions.md
R201). -/
def State.ErrorInv (s : State) : Prop := (s.err = false ↔ s.errCode = 0) ∧ s.errCode.toNat ≤ 6

/-- PALETTE_MEM, INDEX_MEM, PAL_COUNT and REDUCED hold the quantization of the pixels now in PIXEL_MEM
(10_state.md R34). -/
def State.HoldsQuantized (s : State) : Prop :=
  let q := quantizeGrid s.samplePixels
  s.PixelsWritten ∧ s.palCount.toNat = q.palette.length ∧ s.reduced = q.reduced
    ∧ s.mem.HoldsColours paletteBase q.palette ∧ s.mem.HoldsEntries indexBase (indexBytes q.indices)

/-- BIT_WIDTH, PACK_LEN and PACK_MEM hold the packing of that quantization (10_state.md R35). -/
def State.HoldsPacked (s : State) : Prop :=
  let q := quantizeGrid s.samplePixels
  s.bitWidth.toNat = bitWidthOf q.palette.length ∧ s.packLen.toNat = (encodePacked q).length
    ∧ s.mem.HoldsBytes packBase (encodePacked q)

/-- PAYLOAD_MEM[0 .. PAYLOAD_LEN-1] holds the image payload of that quantization (10_state.md R36). -/
def State.HoldsPayload (s : State) : Prop :=
  let y := encodePayload (quantizeGrid s.samplePixels)
  s.payloadLen.toNat = y.length ∧ s.mem.HoldsBytes payloadBase y

/-- OUT_MEM[0 .. OUT_LEN-1] holds the wire frame of a command byte and payload, and OUT_LEN, INNER_LEN and
CHECKSUM describe it (10_state.md R37). -/
def State.HoldsFrame (s : State) (cmd : Byte) (payload : List Byte) (stuff : Bool) : Prop :=
  payload.length ≤ Config.payloadMax
    ∧ s.outLen.toNat = (frameBytes cmd payload stuff).length
    ∧ s.innerLen.toNat = innerLength payload
    ∧ s.checksum.toNat = frameChecksum cmd payload
    ∧ s.mem.HoldsBytes outBase (frameBytes cmd payload stuff)

/-- A running command's snapshot is what its inputs still are, and the checks of its acceptance still hold
(43_control.md R182, 20_memory.md R81, R82); `k ≥ 1` ticks are left (10_state.md R21). -/
def State.SnapshotInv (s : State) : Prop :=
  match s.seq with
  | .idle => True
  | .run snap k => 1 ≤ k ∧
    match snap with
    | .nop => True
    | .quantize pixels => s.PixelsWritten ∧ pixels = s.samplePixels
    | .pack indices palCount qvalid =>
      s.qvalid = true ∧ qvalid = true ∧ indices = s.sampleIndices ∧ palCount = s.palCount
    | .buildPayload palette palCount packed packLen qvalid pvalid =>
      s.pvalid = true ∧ qvalid = true ∧ pvalid = true ∧ palette = s.samplePalette ∧ palCount = s.palCount
        ∧ packed = s.samplePacked ∧ packLen = s.packLen
    | .frame cmd payloadLen payload stuff =>
      s.payloadLen.toNat ≤ Config.payloadMax ∧ s.PayloadWritten ∧ cmd = s.frameCmd
        ∧ payloadLen = s.payloadLen ∧ payload = s.samplePayload ∧ stuff = s.stuff
    | .encode pixels stuff => s.PixelsWritten ∧ pixels = s.samplePixels ∧ stuff = s.stuff

/-- The valid flags mean what they say (10_state.md R34 to R37, 20_memory.md R83): each flag that is set names
results that belong to the image now in PIXEL_MEM, YVALID implies PVALID implies QVALID, and FVALID names a
complete wire frame. -/
def State.ValidInv (s : State) : Prop :=
  s.SnapshotInv
    ∧ (s.qvalid = true → s.HoldsQuantized)
    ∧ (s.pvalid = true → s.qvalid = true ∧ s.HoldsPacked)
    ∧ (s.yvalid = true → s.pvalid = true ∧ s.HoldsPayload)
    ∧ (s.fvalid = true → ∃ cmd payload stuff, s.HoldsFrame cmd payload stuff)

/-! ### What a running command is not disturbed by -/

/-- The state but for what the host may still change or see while a command runs: DONE, ERR, ERR_CODE, the
read-data port, and the model's own fields. -/
def State.settled (s : State) : State :=
  { s with done := false, err := false, errCode := 0, rdata := 0, turns := [], draws := 0 }

end Sys2Proof.Machine
end

