-- ==== Sys2Proof/Certificates/Slice0/Obligations.lean ====
section
/-! DEFINITION. The statements about the PQF block, for the provers. Each docstring names the rule it
formalises; a clause that rests on a choice of the model's says so and names the log entry. -/

open Sys2Proof Sys2Proof.Machine

/-! ### Encoding -/

/-- 30_encoding.md R91: each command has the word of the opcode map, and a word is that command exactly when
it is that whole word. -/
def Obligations.DecodeAcceptsExactlyTheOpcodeMap : Prop :=
  (encode .nop = 0x00000000 ∧ encode .quantize = 0x00000001 ∧ encode .pack = 0x00000002
    ∧ encode .buildPayload = 0x00000003 ∧ encode .frame = 0x00000004 ∧ encode .encode = 0x00000005
    ∧ encode .softReset = 0x0000000F)
  ∧ ∀ (w : Word) (i : Instr), decodeWord w = .ok i ↔ w = encode i

/-- A few command words of the opcode map, and words beside it, written out (30_encoding.md R91 to R93). -/
def Obligations.WrittenOutWordsDecode : Prop :=
  decodeTableWord 32 0x00000000 = some .nop ∧ decodeTableWord 32 0x00000003 = some .buildPayload
    ∧ decodeTableWord 32 0x0000000F = some .softReset ∧ decodeTableWord 32 0x00000006 = none
    ∧ decodeTableWord 32 0x00000011 = none ∧ decodeTableWord 32 0x80000001 = none

/-- 30_encoding.md R92, R93: a word with RSVD ≠ 0, or with RSVD = 0 and OP in 0x6 .. 0xE, is rejected with code 1
while idle (BUSY stays 0, nothing but ERR and ERR_CODE changes) and with code 2 while busy. -/
def Obligations.IllegalCommandWordsAreRejected : Prop :=
  ∀ (s : State) (rest : List Turn) (a : Addr) (w : Word),
    s.turns = .write a w :: rest → targetOf a = .csr .cmd →
    (w.extractLsb' 4 28 ≠ 0 ∨ (w.extractLsb' 4 28 = 0 ∧ 6 ≤ (w.extractLsb' 0 4).toNat ∧ (w.extractLsb' 0 4).toNat ≤ 14)) →
    (s.busy = false → step s = .next { s with
      turns := rest, err := true, errCode := if s.err then s.errCode else 1 })
    ∧ (s.busy = true → step s = .next { s with
      turns := rest, err := true, errCode := if s.err then s.errCode else 2 })

/-- A CMD write presents its word to the decoder and the decoded command runs (10_state.md R29, 43_control.md
R180): `step` is `exec` of the command, at the state without that turn. `withFetchWord` prepares exactly that. -/
def Obligations.StepRunsTheCommandWrittenToCmd : Prop :=
  (∀ (s : State) (rest : List Turn) (a : Addr) (w : Word) (i : Instr),
    s.turns = .write a w :: rest → targetOf a = .csr .cmd → decodeWord w = .ok i → i.wf = true →
    step s = exec i { s with turns := rest })
  ∧ ∀ (s : State) (i : Instr), step (s.withFetchWord 32 (encode i).toNat) = exec i s

/-! ### What each command does, from its CMD write to its completion

That results appear together at the completion tick is 43_control.md R183. The latency is a free value of at least one
tick (log 3), and with no turn waiting every step is a tick (log 13): both are the model's, and the statements below
rest on them. -/

/-- NOP (43_control.md R185): accepted by an idle block, busy for some k ≥ 1 ticks, then DONE = 1 and nothing
else of the block changes.
The latency, its draw count and the ticks of an empty list of turns are the model's (logs 3, 5, 13). -/
def Obligations.NopGoesThroughBusyAndSetsDone : Prop :=
  ∀ s : State, s.Ready →
    ∃ k, 1 ≤ k ∧ exec .nop s = .next { s with seq := .run .nop k, draws := s.draws + 1 }
      ∧ TicksTo k { s with seq := .run .nop k, draws := s.draws + 1 } { s with done := true, draws := s.draws + 1 }

/-- QUANTIZE (40_quantizer.md R116 to R118): with every pixel written it is accepted, and completes with the
palette in PALETTE_MEM[0 .. |P|-1], nothing defined in PALETTE_MEM[|P| .. 255], the indices in INDEX_MEM, the flags
and PAL_COUNT as R116 says; every other field, PIXEL_MEM and every other byte of memory are unchanged.
The latency, its draw count and the ticks of an empty list of turns are the model's (logs 3, 5, 13). -/
def Obligations.QuantizeCompletesWithPaletteAndIndices : Prop :=
  ∀ s : State, s.Ready → s.PixelsWritten →
    let q := quantizeGrid s.samplePixels
    ∃ k u, 1 ≤ k ∧ exec .quantize s = .next { s with seq := .run (.quantize s.samplePixels) k, draws := s.draws + 1 }
      ∧ TicksTo k { s with seq := .run (.quantize s.samplePixels) k, draws := s.draws + 1 } u
      ∧ u = { s with
          mem := u.mem, palCount := BitVec.ofNat 9 q.palette.length, reduced := q.reduced, qvalid := true,
          pvalid := false, yvalid := false, done := true, draws := s.draws + 1 }
      ∧ u.palCount.toNat = q.palette.length
      ∧ u.mem.HoldsColours paletteBase q.palette
      ∧ (∀ i, q.palette.length ≤ i → i < 256 → u.mem.colour? (paletteBase + 4 * i) = none)
      ∧ q.indices.length = 1024 ∧ u.mem.HoldsEntries indexBase (indexBytes q.indices)
      ∧ ∀ a, ¬(paletteBase ≤ a ∧ a < paletteBase + 1024) → ¬(indexBase ≤ a ∧ a < indexBase + 4096) →
          u.mem.read a = s.mem.read a

/-- PACK (41_packer.md R138): with QVALID = 1 (and then PAL_COUNT ≤ 256, by the invariant that
StepKeepsValidFlagsTruthful states) it is accepted, and completes with the packed indices in PACK_MEM, BIT_WIDTH and
PACK_LEN, PVALID set and YVALID cleared; everything else is unchanged.
The latency, its draw count and the ticks of an empty list of turns are the model's (logs 3, 5, 13). -/
def Obligations.PackCompletesWithPackedIndices : Prop :=
  ∀ s : State, s.Ready → s.qvalid = true → s.palCount.toNat ≤ 256 →
    let w := bitWidthOf s.palCount.toNat
    let b := packIndices (s.sampleIndices.map BitVec.toNat) w
    ∃ k u, 1 ≤ k
      ∧ exec .pack s = .next { s with
          seq := .run (.pack s.sampleIndices s.palCount true) k, draws := s.draws + 1 }
      ∧ TicksTo k { s with seq := .run (.pack s.sampleIndices s.palCount true) k, draws := s.draws + 1 } u
      ∧ u = { s with
          mem := u.mem, bitWidth := BitVec.ofNat 4 w, packLen := BitVec.ofNat 11 b.length, pvalid := true,
          yvalid := false, done := true, draws := s.draws + 1 }
      ∧ u.bitWidth.toNat = w ∧ u.packLen.toNat = 128 * w ∧ b.length = 128 * w
      ∧ u.mem.HoldsBytes packBase b ∧ s.mem.SameOutside u.mem packBase (packBase + b.length)

/-- BUILD_PAYLOAD (42_framer.md R156): with QVALID = PVALID = 1 (and then PAL_COUNT ≤ 256 and PACK_LEN ≤ 1024, by the
invariant that StepKeepsValidFlagsTruthful states) it is accepted, and completes with the image payload in
PAYLOAD_MEM, its length in PAYLOAD_LEN, YVALID set; everything else is unchanged.
The latency, its draw count and the ticks of an empty list of turns are the model's (logs 3, 5, 13). -/
def Obligations.BuildPayloadCompletesWithImagePayload : Prop :=
  ∀ s : State, s.Ready → s.qvalid = true → s.pvalid = true → s.palCount.toNat ≤ 256 → s.packLen.toNat ≤ 1024 →
    let y := imagePayload s.samplePalette s.samplePacked
    let snap := Snapshot.buildPayload s.samplePalette s.palCount s.samplePacked s.packLen true true
    ∃ k u, 1 ≤ k ∧ exec .buildPayload s = .next { s with seq := .run snap k, draws := s.draws + 1 }
      ∧ TicksTo k { s with seq := .run snap k, draws := s.draws + 1 } u
      ∧ u = { s with
          mem := u.mem, payloadLen := BitVec.ofNat 16 y.length, yvalid := true, done := true,
          draws := s.draws + 1 }
      ∧ u.payloadLen.toNat = 12 + 3 * s.palCount.toNat + s.packLen.toNat
      ∧ y.length = 12 + 3 * s.palCount.toNat + s.packLen.toNat
      ∧ u.mem.HoldsBytes payloadBase y ∧ s.mem.SameOutside u.mem payloadBase (payloadBase + y.length)

/-- FRAME (42_framer.md R169): with PAYLOAD_LEN ≤ 2048 and every byte below it written it is accepted, and completes
with the frame in OUT_MEM, OUT_LEN, INNER_LEN and CHECKSUM, FVALID set; everything else is unchanged.
The latency, its draw count and the ticks of an empty list of turns are the model's (logs 3, 5, 13). -/
def Obligations.FrameCompletesWithWireFrame : Prop :=
  ∀ s : State, s.Ready → s.payloadLen.toNat ≤ 2048 → s.PayloadWritten →
    let f := frameBytes s.frameCmd s.samplePayload s.stuff
    let snap := Snapshot.frame s.frameCmd s.payloadLen s.samplePayload s.stuff
    ∃ k u, 1 ≤ k ∧ exec .frame s = .next { s with seq := .run snap k, draws := s.draws + 1 }
      ∧ TicksTo k { s with seq := .run snap k, draws := s.draws + 1 } u
      ∧ u = { s with
          mem := u.mem, outLen := u.outLen, innerLen := u.innerLen, checksum := u.checksum, fvalid := true,
          done := true, draws := s.draws + 1 }
      ∧ u.outLen.toNat = f.length ∧ u.innerLen.toNat = 1 + s.payloadLen.toNat + 2
      ∧ u.checksum.toNat = (byteSum (le16 (1 + s.payloadLen.toNat + 2) ++ s.frameCmd :: s.samplePayload)) % 65536
      ∧ u.mem.HoldsBytes outBase f ∧ s.mem.SameOutside u.mem outBase (outBase + f.length)

/-- ENCODE (43_control.md R186): with every pixel written it is accepted, and completes with every stage's result,
framed with 0x44 whatever FRAME_CMD is; FRAME_CMD, ERR, ERR_CODE, CTRL, PIXEL_MEM and every byte outside the five
result ranges are unchanged.
The latency, its draw count and the ticks of an empty list of turns are the model's (logs 3, 5, 13). -/
def Obligations.EncodeCompletesWithTheWholePipeline : Prop :=
  ∀ s : State, s.Ready → s.PixelsWritten →
    let q := quantizeGrid s.samplePixels
    let w := bitWidthOf q.palette.length
    let b := packIndices q.indices w
    let y := imagePayload q.palette b
    let f := frameBytes 0x44 y s.stuff
    ∃ k u, 1 ≤ k
      ∧ exec .encode s = .next { s with seq := .run (.encode s.samplePixels s.stuff) k, draws := s.draws + 1 }
      ∧ TicksTo k { s with seq := .run (.encode s.samplePixels s.stuff) k, draws := s.draws + 1 } u
      ∧ u = { s with
          mem := u.mem, palCount := u.palCount, bitWidth := u.bitWidth, packLen := u.packLen,
          payloadLen := u.payloadLen, innerLen := u.innerLen, checksum := u.checksum, outLen := u.outLen,
          reduced := q.reduced, qvalid := true, pvalid := true, yvalid := true, fvalid := true, done := true,
          draws := s.draws + 1 }
      ∧ u.palCount.toNat = q.palette.length ∧ u.bitWidth.toNat = w ∧ u.packLen.toNat = b.length
      ∧ u.payloadLen.toNat = y.length ∧ u.innerLen.toNat = y.length + 3 ∧ u.outLen.toNat = f.length
      ∧ u.checksum.toNat = frameChecksum 0x44 y
      ∧ u.mem.HoldsColours paletteBase q.palette
      ∧ (∀ i, q.palette.length ≤ i → i < 256 → u.mem.colour? (paletteBase + 4 * i) = none)
      ∧ u.mem.HoldsEntries indexBase (indexBytes q.indices) ∧ u.mem.HoldsBytes packBase b
      ∧ u.mem.HoldsBytes payloadBase y ∧ u.mem.HoldsBytes outBase f
      ∧ ∀ a, ¬(paletteBase ≤ a ∧ a < paletteBase + 1024) → ¬(indexBase ≤ a ∧ a < indexBase + 4096) →
          ¬(packBase ≤ a ∧ a < packBase + b.length) → ¬(payloadBase ≤ a ∧ a < payloadBase + y.length) →
          ¬(outBase ≤ a ∧ a < outBase + f.length) → u.mem.read a = s.mem.read a

/-- SOFT_RESET (43_control.md R187): while idle every CSR field takes its reset value in the step itself, and
the memories, the written-bits (the listed addresses) and SEQ stay; while busy code 2 is recorded and nothing is
reset. That the read-data port and the model's own fields (`turns`, `draws`) stay is the model's choice (log 9). -/
def Obligations.SoftResetResetsTheRegistersOnly : Prop :=
  (∀ s : State, s.seq = .idle →
    exec .softReset s = .next { State.reset with
      mem := s.mem, rdata := s.rdata, turns := s.turns, draws := s.draws })
  ∧ ∀ s : State, s.busy = true →
    exec .softReset s = .next { s with err := true, errCode := if s.err then s.errCode else 2 }

/-! ### Rejections and faults at acceptance -/

/-- 60_exceptions.md R201 (code 2), R204, R205: a busy block rejects every command, the running one goes on, and
nothing but ERR and ERR_CODE changes. -/
def Obligations.BusyBlockRejectsEveryCommand : Prop :=
  ∀ (i : Instr) (s : State), s.busy = true →
    exec i s = .next { s with err := true, errCode := if s.err then s.errCode else 2 }

/-- 43_control.md R180, 60_exceptions.md R202: the checks of PACK, BUILD_PAYLOAD and FRAME at acceptance, with
their codes; a rejected command changes nothing but ERR and ERR_CODE. -/
def Obligations.SequencingChecksRejectWithTheirCodes : Prop :=
  (∀ s : State, s.seq = .idle → s.qvalid = false →
    exec .pack s = .next { s with err := true, errCode := if s.err then s.errCode else 3 }
    ∧ exec .buildPayload s = .next { s with err := true, errCode := if s.err then s.errCode else 3 })
  ∧ (∀ s : State, s.seq = .idle → s.qvalid = true → s.pvalid = false →
    exec .buildPayload s = .next { s with err := true, errCode := if s.err then s.errCode else 4 })
  ∧ ∀ s : State, s.seq = .idle → 2048 < s.payloadLen.toNat →
    exec .frame s = .next { s with err := true, errCode := if s.err then s.errCode else 5 }

/-- 70_reset_and_hazards.md R236: QUANTIZE and ENCODE with a pixel never written, and FRAME with a payload byte
below PAYLOAD_LEN never written, are the named model faults. That the entry named is the lowest one is the model's
choice (log 10). -/
def Obligations.UnwrittenInputIsTheNamedModelFault : Prop :=
  (∀ (s : State) (p : Nat), s.seq = .idle → p < 1024 →
    (∀ p' < p, s.mem.colourWritten (pixelBase + 4 * p') = true) →
    s.mem.colourWritten (pixelBase + 4 * p) = false →
    exec .quantize s = .fault (.unwrittenPixel .quantize p) ∧ exec .encode s = .fault (.unwrittenPixel .encode p))
  ∧ ∀ (s : State) (b : Nat), s.seq = .idle → s.payloadLen.toNat ≤ 2048 → b < s.payloadLen.toNat →
    (∀ b' < b, s.mem.byteWritten (payloadBase + b') = true) → s.mem.byteWritten (payloadBase + b) = false →
    exec .frame s = .fault (.unwrittenPayload .frame b)

/-- 60_exceptions.md R207: the block never stops because of an error. Every step of every state answers a next
state, but for the model fault of 70_reset_and_hazards.md R236, which takes a write to CMD of an idle block, the word
of the command the fault names, which the block would accept, and an unwritten entry. -/
def Obligations.EveryStepGoesOnButForUnwrittenInput : Prop :=
  ∀ s : State, (∃ t, step s = .next t)
    ∨ (s.seq = .idle ∧ ∃ a v rest op, s.turns = .write a v :: rest ∧ targetOf a = .csr .cmd ∧ decodeWord v = .ok op
        ∧ (((op = .quantize ∨ op = .encode) ∧ ∃ p, step s = .fault (.unwrittenPixel op p)
              ∧ p < 1024 ∧ s.mem.colourWritten (pixelBase + 4 * p) = false)
          ∨ (op = .frame ∧ ∃ b, step s = .fault (.unwrittenPayload .frame b)
              ∧ b < s.payloadLen.toNat ∧ s.payloadLen.toNat ≤ 2048 ∧ s.mem.byteWritten (payloadBase + b) = false)))

/-- The frame of a CMD write (43_control.md R180, R181, 60_exceptions.md R203, R205): a command other than
SOFT_RESET changes at most SEQ, ERR, ERR_CODE (and the draw count, log 5); either it is rejected and SEQ is as it was,
or an idle block runs it for k ≥ 1 ticks with ERR, ERR_CODE and DONE as they were. -/
def Obligations.CommandWriteChangesOnlySequencerOrError : Prop :=
  ∀ (i : Instr) (s t : State), i ≠ .softReset → exec i s = .next t →
    t = { s with seq := t.seq, err := t.err, errCode := t.errCode, draws := t.draws }
    ∧ ((t.seq = s.seq ∧ t.err = true ∧ t.draws = s.draws ∧ (s.err = true → t.errCode = s.errCode))
      ∨ (s.seq = .idle ∧ t.err = s.err ∧ t.errCode = s.errCode
          ∧ ∃ snap k, 1 ≤ k ∧ t.seq = .run snap k))

/-! ### Errors, STATUS and irq -/

/-- 60_exceptions.md R203: `raise Error(code)` keeps the first code since the last clear, sets ERR, and touches
nothing else, DONE, BUSY, the valid flags and the memories among it. -/
def Obligations.RaisedErrorKeepsTheFirstCode : Prop :=
  ∀ (c : ErrorCode) (s : State),
    raiseError c s = { s with err := true, errCode := (raiseError c s).errCode }
    ∧ (s.err = false → (raiseError c s).errCode = c.bits) ∧ (s.err = true → (raiseError c s).errCode = s.errCode)

/-- 10_state.md R30, R32, R33, 60_exceptions.md R206: a write to STATUS, even while busy, clears DONE where bit 1 is
1, and ERR together with ERR_CODE where bit 2 is 1, and does nothing else. -/
def Obligations.StatusWriteClearsDoneAndErr : Prop :=
  ∀ (s : State) (rest : List Turn) (a : Addr) (v : Word),
    s.turns = .write a v :: rest → targetOf a = .csr .status →
    step s = .next { s with
      turns := rest
      done := if v.getLsbD 1 then false else s.done
      err := if v.getLsbD 2 then false else s.err
      errCode := if v.getLsbD 2 then 0 else s.errCode }

/-- 10_state.md R39: ERR_CODE is 0 exactly while ERR = 0 and never above 6; every step keeps it. -/
def Obligations.StepKeepsErrorCodeMatchingErr : Prop :=
  ∀ s t : State, s.ErrorInv → step s = .next t → t.ErrorInv

/-- 10_state.md R58, 60_exceptions.md R208: after every step `irq` is what the host reads as CTRL.IRQ_EN and STATUS.DONE or
STATUS.ERR, whatever runs; it is 0 at reset. -/
def Obligations.IrqFollowsWhatTheHostReads : Prop :=
  (∀ s t : State, step s = .next t →
    t.irq = ((t.memRead 0x0004).getLsbD 1 && ((t.memRead 0x000C).getLsbD 1 || (t.memRead 0x000C).getLsbD 2)))
  ∧ State.reset.irq = false

/-! ### The host bus -/

/-- 20_memory.md R60: address bits 1:0 are not decoded, for reads and for writes. -/
def Obligations.LowAddressBitsAreNotDecoded : Prop :=
  ∀ (a : Addr) (v : Word) (s : State),
    hostRead a s = hostRead (a &&& 0xFFFC) s ∧ hostWrite a v s = hostWrite (a &&& 0xFFFC) v s

/-- 20_memory.md R74: a read has no side effect; only the read-data port changes (and the draw count, log 5). -/
def Obligations.ReadsHaveNoSideEffect : Prop :=
  ∀ (s : State) (rest : List Turn) (a : Addr), s.turns = .read a :: rest →
    ∃ t, step s = .next t ∧ t = { s with turns := rest, rdata := t.rdata, draws := t.draws }

/-- 10_state.md R27, R29, R48, 20_memory.md R63: ID reads its constant, CMD and reserved words read 0, in every
state. -/
def Obligations.FixedWordsReadTheirConstants : Prop :=
  ∀ (s : State) (a : Addr),
    (targetOf a = .csr .id → s.memRead a = 0x50514601) ∧ (targetOf a = .csr .cmd → s.memRead a = 0)
    ∧ (targetOf a = .reserved → s.memRead a = 0)

/-- 20_memory.md R73, 10_state.md R26 to R47: BUSY, DONE, ERR, ERR_CODE and the registers no command writes (ID, CTRL,
CMD, FRAME_CMD) always read exactly, and with no command running the whole of STATUS and of the other registers read
their values, each at its offset of R26, and at every address that names it. That STATUS bits 31:8 read 0 while a
command runs, too, is the model's choice between R24 and R73 (log 7). -/
def Obligations.StatusReadsExactlyWhereItMust : Prop :=
  ∀ s : State,
    (s.memRead 0x000C).getLsbD 0 = s.busy ∧ (s.memRead 0x000C).getLsbD 1 = s.done
    ∧ (s.memRead 0x000C).getLsbD 2 = s.err ∧ (∀ i, 8 ≤ i → (s.memRead 0x000C).getLsbD i = false)
    ∧ (s.memRead 0x0010).toNat = s.errCode.toNat
    ∧ s.memRead 0x0000 = 0x50514601 ∧ s.memRead 0x0008 = 0 ∧ s.memRead 0x0014 = s.frameCmd.setWidth 32
    ∧ (s.memRead 0x0004).getLsbD 0 = s.stuff ∧ (s.memRead 0x0004).getLsbD 1 = s.irqEn
    ∧ (∀ i, 2 ≤ i → (s.memRead 0x0004).getLsbD i = false)
    ∧ (s.seq = .idle →
      (∀ r, ∀ a, targetOf a = .csr r → s.memRead a = s.csrWord r)
      ∧ (s.memRead 0x000C).getLsbD 3 = s.qvalid ∧ (s.memRead 0x000C).getLsbD 4 = s.pvalid
      ∧ (s.memRead 0x000C).getLsbD 5 = s.yvalid ∧ (s.memRead 0x000C).getLsbD 6 = s.fvalid
      ∧ (s.memRead 0x000C).getLsbD 7 = s.reduced
      ∧ s.memRead 0x0018 = s.payloadLen.setWidth 32 ∧ s.memRead 0x001C = s.palCount.setWidth 32
      ∧ s.memRead 0x0020 = s.bitWidth.setWidth 32 ∧ s.memRead 0x0024 = s.packLen.setWidth 32
      ∧ s.memRead 0x0028 = s.innerLen.setWidth 32 ∧ s.memRead 0x002C = s.checksum.setWidth 32
      ∧ s.memRead 0x0030 = s.outLen.setWidth 32)

/-- 20_memory.md R66, R83, 10_state.md R25, R56, 70_reset_and_hazards.md R241: a pixel write while idle stores v[23:0] in
its entry, marks it written, reads back with alpha 0, clears QVALID, PVALID and YVALID, and changes no other byte and no
other field. -/
def Obligations.PixelWriteStoresColourAndInvalidates : Prop :=
  ∀ (s : State) (rest : List Turn) (p : Nat) (v : Word), p < 1024 → s.seq = .idle →
    s.turns = .write (BitVec.ofNat 16 (0x1000 + 4 * p)) v :: rest →
    ∃ t, step s = .next t
      ∧ t = { s with turns := rest, mem := t.mem, qvalid := false, pvalid := false, yvalid := false }
      ∧ t.mem.colour? (0x1000 + 4 * p) = some (v.extractLsb' 0 24)
      ∧ t.mem.colourWritten (0x1000 + 4 * p) = true
      ∧ t.memRead (BitVec.ofNat 16 (0x1000 + 4 * p)) = v &&& 0x00FFFFFF
      ∧ s.mem.SameOutside t.mem (0x1000 + 4 * p) (0x1000 + 4 * p + 4)

/-- 20_memory.md R64, R67, R83: a payload write while idle stores the word's four bytes, low byte first, marks them
written, reads back as the word where PAYLOAD_LEN covers it, clears YVALID, and changes no other byte and no other
field. -/
def Obligations.PayloadWriteStoresLittleEndianBytes : Prop :=
  ∀ (s : State) (rest : List Turn) (k : Nat) (v : Word), k < 512 → s.seq = .idle →
    s.turns = .write (BitVec.ofNat 16 (0x2000 + 4 * k)) v :: rest →
    ∃ t, step s = .next t
      ∧ t = { s with turns := rest, mem := t.mem, yvalid := false }
      ∧ (∀ j < 4, t.mem.read (0x2000 + 4 * k + j) = some (v.extractLsb' (8 * j) 8))
      ∧ (4 * k + 4 ≤ s.payloadLen.toNat → t.memRead (BitVec.ofNat 16 (0x2000 + 4 * k)) = v)
      ∧ s.mem.SameOutside t.mem (0x2000 + 4 * k) (0x2000 + 4 * k + 4)

/-- 10_state.md R28, R40, R41, 20_memory.md R83: while idle a write to CTRL stores v[1:0] in IRQ_EN and STUFF, one to
FRAME_CMD stores v[7:0], one to PAYLOAD_LEN stores v[15:0], whatever its size, and clears YVALID; what was stored reads
back, the reserved bits as 0, and nothing else changes. -/
def Obligations.ConfigurationWritesStoreTheirFields : Prop :=
  ∀ (s : State) (rest : List Turn) (a : Addr) (v : Word), s.seq = .idle → s.turns = .write a v :: rest →
    (targetOf a = .csr .ctrl → ∃ t, step s = .next t
      ∧ t = { s with turns := rest, stuff := v.getLsbD 0, irqEn := v.getLsbD 1 } ∧ t.memRead a = v &&& 0x3)
    ∧ (targetOf a = .csr .frameCmd → ∃ t, step s = .next t
      ∧ t = { s with turns := rest, frameCmd := v.extractLsb' 0 8 } ∧ t.memRead a = v &&& 0xFF)
    ∧ (targetOf a = .csr .payloadLen → ∃ t, step s = .next t
      ∧ t = { s with turns := rest, payloadLen := v.extractLsb' 0 16, yvalid := false }
      ∧ t.memRead a = v &&& 0xFFFF)

/-- 20_memory.md R82: while busy, a write to CTRL, FRAME_CMD, PAYLOAD_LEN, PIXEL_MEM or PAYLOAD_MEM is dropped and
code 6 is recorded; a write to CMD gives code 2; a write to STATUS follows its own rule; every other write does nothing
and records nothing. -/
def Obligations.WritesWhileBusyAreDropped : Prop :=
  ∀ (s : State) (rest : List Turn) (a : Addr) (v : Word), s.busy = true → s.turns = .write a v :: rest →
    ((targetOf a = .csr .ctrl ∨ targetOf a = .csr .frameCmd ∨ targetOf a = .csr .payloadLen
        ∨ (∃ p, targetOf a = .pixel p) ∨ ∃ k, targetOf a = .payload k) →
      step s = .next { s with turns := rest, err := true, errCode := if s.err then s.errCode else 6 })
    ∧ (targetOf a = .csr .cmd →
      step s = .next { s with turns := rest, err := true, errCode := if s.err then s.errCode else 2 })
    ∧ (targetOf a = .csr .status → step s = .next (State.writeStatus v { s with turns := rest }))
    ∧ ((targetOf a ≠ .csr .ctrl ∧ targetOf a ≠ .csr .frameCmd ∧ targetOf a ≠ .csr .payloadLen
        ∧ (∀ p, targetOf a ≠ .pixel p) ∧ (∀ k, targetOf a ≠ .payload k) ∧ targetOf a ≠ .csr .cmd
        ∧ targetOf a ≠ .csr .status) → step s = .next { s with turns := rest })

/-- 20_memory.md R63: writes to reserved addresses, read-only memories and read-only registers have no effect and raise
no error, busy or not, and a reserved address reads 0. The ranges are those of R62. -/
def Obligations.ReadOnlyAndReservedWordsIgnoreWrites : Prop :=
  ∀ (s : State) (rest : List Turn) (a : Addr) (v : Word),
    let n := a.toNat
    (n < 0x4 ∨ (0x10 ≤ n ∧ n < 0x14) ∨ (0x1C ≤ n ∧ n < 0x1000) ∨ 0x2800 ≤ n) →
    s.turns = .write a v :: rest →
    step s = .next { s with turns := rest }
    ∧ (((0x34 ≤ n ∧ n < 0x1000) ∨ (0x2800 ≤ n ∧ n < 0x3000) ∨ (0x3800 ≤ n ∧ n < 0x4000) ∨ (0x5000 ≤ n ∧ n < 0x8000)
        ∨ 0xA000 ≤ n) → s.memRead a = 0)

/-- 20_memory.md R64, R66, R68: with no command running, an entry that holds a value and lies below its result's length
reads back: colours and indices zero-extended, bytes in little-endian lanes. -/
def Obligations.WindowsReadTheEntriesTheyHold : Prop :=
  ∀ s : State, s.seq = .idle →
    (∀ p < 1024, ∀ c, s.mem.colour? (0x1000 + 4 * p) = some c →
      s.memRead (BitVec.ofNat 16 (0x1000 + 4 * p)) = c.setWidth 32)
    ∧ (∀ i < 256, ∀ c, i < s.palCount.toNat → s.mem.colour? (0x3000 + 4 * i) = some c →
      s.memRead (BitVec.ofNat 16 (0x3000 + 4 * i)) = c.setWidth 32)
    ∧ (∀ p < 1024, ∀ b, s.mem.read (0x4000 + 4 * p) = some b →
      s.memRead (BitVec.ofNat 16 (0x4000 + 4 * p)) = b.setWidth 32)
    ∧ (∀ k < 512, ∀ j < 4, ∀ b, 4 * k + j < s.payloadLen.toNat → s.mem.read (0x2000 + 4 * k + j) = some b →
      (s.memRead (BitVec.ofNat 16 (0x2000 + 4 * k))).extractLsb' (8 * j) 8 = b)
    ∧ (∀ k < 256, ∀ j < 4, ∀ b, 4 * k + j < s.packLen.toNat → s.mem.read (0x3400 + 4 * k + j) = some b →
      (s.memRead (BitVec.ofNat 16 (0x3400 + 4 * k))).extractLsb' (8 * j) 8 = b)
    ∧ ∀ k < 2048, ∀ j < 4, ∀ b, 4 * k + j < s.outLen.toNat → s.mem.read (0x8000 + 4 * k + j) = some b →
      (s.memRead (BitVec.ofNat 16 (0x8000 + 4 * k))).extractLsb' (8 * j) 8 = b

/-- 20_memory.md R73, R69, 43_control.md R188: while a command runs, a register outside its write set reads its value, a
STATUS bit outside it reads exactly, and so does every memory entry outside it that holds a value and lies below its
result's length: of PIXEL_MEM, which is in no write set; of PALETTE_MEM and INDEX_MEM unless the command is QUANTIZE or
ENCODE; of PAYLOAD_MEM, PACK_MEM and OUT_MEM from the command's new length upward. STATUS bits 31:8 are counted outside
every write set, which is the model's choice (log 7). -/
def Obligations.ReadsOutsideTheWriteSetAreExact : Prop :=
  ∀ (s : State) (snap : Snapshot) (k : Nat), s.seq = .run snap k →
    (∀ a r, targetOf a = .csr r → r ≠ .status → snap.writesCsr r = false → s.memRead a = s.csrWord r)
    ∧ (∀ i, snap.statusMask.getLsbD i = false → (s.memRead 0x000C).getLsbD i = s.statusWord.getLsbD i)
    ∧ (∀ p < 1024, ∀ c, s.mem.colour? (0x1000 + 4 * p) = some c →
      s.memRead (BitVec.ofNat 16 (0x1000 + 4 * p)) = c.setWidth 32)
    ∧ (snap.writesImage = false →
      (∀ i < 256, ∀ c, i < s.palCount.toNat → s.mem.colour? (0x3000 + 4 * i) = some c →
        s.memRead (BitVec.ofNat 16 (0x3000 + 4 * i)) = c.setWidth 32)
      ∧ ∀ p < 1024, ∀ b, s.mem.read (0x4000 + 4 * p) = some b →
        s.memRead (BitVec.ofNat 16 (0x4000 + 4 * p)) = b.setWidth 32)
    ∧ (∀ n < 512, ∀ j < 4, ∀ b, 4 * n + j < s.payloadLen.toNat → snap.newPayloadLen ≤ 4 * n + j →
      s.mem.read (0x2000 + 4 * n + j) = some b →
      (s.memRead (BitVec.ofNat 16 (0x2000 + 4 * n))).extractLsb' (8 * j) 8 = b)
    ∧ (∀ n < 256, ∀ j < 4, ∀ b, 4 * n + j < s.packLen.toNat → snap.newPackLen ≤ 4 * n + j →
      s.mem.read (0x3400 + 4 * n + j) = some b →
      (s.memRead (BitVec.ofNat 16 (0x3400 + 4 * n))).extractLsb' (8 * j) 8 = b)
    ∧ ∀ n < 2048, ∀ j < 4, ∀ b, 4 * n + j < s.outLen.toNat → snap.newOutLen ≤ 4 * n + j →
      s.mem.read (0x8000 + 4 * n + j) = some b →
      (s.memRead (BitVec.ofNat 16 (0x8000 + 4 * n))).extractLsb' (8 * j) 8 = b

/-- 30_encoding.md R97, R98: `WAIT` reads STATUS once a turn, stays while BUSY is 1 and moves on when it is 0; the block
changes in its read-data port alone (and the model's own fields). -/
def Obligations.WaitMovesOnExactlyWhenNotBusy : Prop :=
  ∀ (b : State) (rest : List Stmt) (vars : List (String × Word)),
    ∃ b' : State,
      HostRun.hostTurn { block := b, prog := waitStmts ++ rest, vars := vars }
        = .next { block := b', prog := if b.busy then waitStmts ++ rest else rest, vars := vars }
      ∧ b' = { b with rdata := b'.rdata, turns := b'.turns, draws := b'.draws }

/-- 30_encoding.md R99: where OUT_MEM, OUT_LEN and the rest hold a wire frame (10_state.md R37), the host's read-out
sequence returns exactly its bytes. -/
def Obligations.HostReadsOutExactlyTheFrame : Prop :=
  ∀ (s : State) (cmd : Byte) (payload : List Byte) (stuff : Bool), s.seq = .idle → s.HoldsFrame cmd payload stuff →
    readFrameOut s = frameBytes cmd payload stuff

/-! ### Reset -/

/-- 70_reset_and_hazards.md R232: what reset leaves. CTRL.STUFF is the open parameter (log 4). -/
def Obligations.ResetLeavesTheSpecifiedValues : Prop :=
  let s := State.reset
  s.seq = .idle ∧ s.csrWord .id = 0x50514601 ∧ s.stuff = Config.stuffReset ∧ s.irqEn = false ∧ s.csrWord .cmd = 0
    ∧ s.statusWord = 0 ∧ s.errCode = 0 ∧ s.frameCmd = 0x44 ∧ s.payloadLen = 0 ∧ s.palCount = 0 ∧ s.bitWidth = 0
    ∧ s.packLen = 0 ∧ s.innerLen = 0 ∧ s.checksum = 0 ∧ s.outLen = 0 ∧ s.irq = false
    ∧ ∀ a, s.mem.byteWritten a = false

/-- 70_reset_and_hazards.md R231: hardware reset, taken in any state, abandons a running command, leaves every
register at its reset value, every memory entry without a defined value and every written-bit 0. That the read-data port
and the model's own fields stay is the model's choice (log 9). -/
def Obligations.HardwareResetReachesTheResetState : Prop :=
  ∀ (s : State) (rest : List Turn), s.turns = .reset :: rest →
    step s = .next { State.reset with rdata := s.rdata, turns := rest, draws := s.draws }

/-! ### The quantizer -/

/-- 40_quantizer.md R111: the palette is the colours of `g` without repeats in first-seen order, and each index is its
colour's place in the palette. -/
def Obligations.ScanBuildsFirstSeenPalette : Prop :=
  ∀ g : List Colour, g ≠ [] →
    let p := (scan g).1
    let i := (scan g).2
    p.Nodup ∧ (∀ c, c ∈ p ↔ c ∈ g) ∧ p.Pairwise (fun a b => g.idxOf a < g.idxOf b)
    ∧ i = g.map (fun c => p.idxOf c) ∧ 1 ≤ p.length ∧ p.length ≤ g.length
    ∧ (∀ n < g.length, ∃ j, i[n]? = some j ∧ j < p.length ∧ p[j]? = g[n]?)
    ∧ p[0]? = g[0]? ∧ i[0]? = some 0

/-- 40_quantizer.md R112: Reduce keeps the top 3, 3 and 2 bits of R, G and B in place, is idempotent, and takes exactly
256 values. -/
def Obligations.ReduceKeepsTopBitsInPlace : Prop :=
  (∀ c : Colour, reduce c = c &&& 0xE0E0C0 ∧ red (reduce c) = red c &&& 0xE0 ∧ green (reduce c) = green c &&& 0xE0
      ∧ blue (reduce c) = blue c &&& 0xC0 ∧ reduce (reduce c) = reduce c)
  ∧ ∃ vs : List Colour, vs.Nodup ∧ vs.length = 256 ∧ (∀ c, reduce c ∈ vs) ∧ ∀ v ∈ vs, ∃ c, reduce c = v

/-- 40_quantizer.md R113, R114: Quantize scans once, or reduces and scans afresh exactly when the first palette exceeds
256 colours, and leaves between 1 and 256 colours. -/
def Obligations.QuantizeLeavesAtMost256Colours : Prop :=
  ∀ g : List Colour, g ≠ [] →
    let q := quantizeGrid g
    1 ≤ q.palette.length ∧ q.palette.length ≤ 256
    ∧ ((scan g).1.length ≤ 256 → q.reduced = false ∧ (q.palette, q.indices) = scan g)
    ∧ (256 < (scan g).1.length → q.reduced = true ∧ (q.palette, q.indices) = scan (g.map reduce))

/-! ### The packer -/

/-- 41_packer.md R131: BitWidth(N) is max(1, ceil(log2 N)), the least w ≥ 1 with N ≤ 2^w, and in 1..8 for N in
1..256. -/
def Obligations.BitWidthIsTheLeastSufficientWidth : Prop :=
  ∀ n : Nat, 1 ≤ n →
    bitWidthOf n = max 1 (Nat.clog 2 n) ∧ 1 ≤ bitWidthOf n ∧ n ≤ 2 ^ bitWidthOf n
    ∧ (∀ w, 1 ≤ w → n ≤ 2 ^ w → bitWidthOf n ≤ w) ∧ (n ≤ 256 → bitWidthOf n ≤ 8)

/-- 41_packer.md R134: bit t of byte b of Pack(I, w) is bit j of field p, where 8b + t = w·p + j, and 0 beyond the last
field. -/
def Obligations.PackIsOneLittleEndianBitString : Prop :=
  ∀ (i : List Nat) (w : Nat), i ≠ [] → 1 ≤ w → w ≤ 8 → ∀ b t, b < (packIndices i w).length → t < 8 →
    (8 * b + t < w * i.length →
      streamBit (packIndices i w) (8 * b + t) = ((i[(8 * b + t) / w]?).getD 0).testBit ((8 * b + t) % w))
    ∧ (w * i.length ≤ 8 * b + t → streamBit (packIndices i w) (8 * b + t) = false)

/-- 41_packer.md R135: |Pack(I, w)| = ceil(w·n / 8), so 128·w for 1024 pixels. -/
def Obligations.PackLengthIsCeilingOfBits : Prop :=
  ∀ (i : List Nat) (w : Nat), 1 ≤ w → w ≤ 8 →
    (packIndices i w).length = (w * i.length + 7) / 8
    ∧ (i.length = 1024 → (packIndices i w).length = 128 * w)

/-- 41_packer.md R136: unpacking a packing of indices below 2^w gives them back. -/
def Obligations.UnpackRecoversPackedIndices : Prop :=
  ∀ (i : List Nat) (w : Nat), 1 ≤ w → w ≤ 8 → (∀ x ∈ i, x < 2 ^ w) → unpack (packIndices i w) w i.length = i

/-! ### The framer -/

/-- 42_framer.md R150 to R153, R155: the image payload is the 12-byte sub-header with `len = 8 + L` and `colorCount = N`
little-endian, three bytes R, G, B a colour, then the packed bytes; it has 12 + 3·N + L bytes, 143 to 1804 for a packed
1024-pixel image, so it fits PAYLOAD_MEM. -/
def Obligations.ImagePayloadHasItsLayoutAndFits : Prop :=
  ∀ (p : List Colour) (b : List Byte), 1 ≤ p.length → p.length ≤ 256 → b.length = 128 * bitWidthOf p.length →
    let y := imagePayload p b
    y.length = 12 + 3 * p.length + b.length ∧ 143 ≤ y.length ∧ y.length ≤ 1804
    ∧ y.take 5 = [0x00, 0x0A, 0x0A, 0x04, 0xAA] ∧ (y.drop 7).take 3 = [0x00, 0x00, 0x03]
    ∧ (∃ l h : Byte, y[5]? = some l ∧ y[6]? = some h ∧ l.toNat + 256 * h.toNat = 8 + b.length)
    ∧ (∃ l h : Byte, y[10]? = some l ∧ y[11]? = some h ∧ l.toNat + 256 * h.toNat = p.length)
    ∧ (∀ i < p.length, y[12 + 3 * i]? = (p[i]?).map red ∧ y[12 + 3 * i + 1]? = (p[i]?).map green
        ∧ y[12 + 3 * i + 2]? = (p[i]?).map blue)
    ∧ y.drop (12 + 3 * p.length) = b

/-- 42_framer.md R161, R170: the bytes of an unstuffed frame at their offsets, length and checksum little-endian, the
checksum the sum of everything before it mod 65536. -/
def Obligations.UnstuffedFrameHasItsLayout : Prop :=
  ∀ (cmd : Byte) (y : List Byte), y.length ≤ 2048 →
    let f := frameBytes cmd y false
    f.length = y.length + 7 ∧ f[0]? = some 0x01
    ∧ (∃ l h : Byte, f[1]? = some l ∧ f[2]? = some h ∧ l.toNat + 256 * h.toNat = 3 + y.length)
    ∧ f[3]? = some cmd ∧ (∀ j < y.length, f[4 + j]? = y[j]?)
    ∧ (∃ l h : Byte, f[4 + y.length]? = some l ∧ f[5 + y.length]? = some h
        ∧ l.toNat + 256 * h.toNat = byteSum ((f.drop 1).take (3 + y.length)) % 65536)
    ∧ f[6 + y.length]? = some 0x02

/-- 42_framer.md R164: `Stuff` replaces each byte, in order, by the one or two bytes of the rule; a stuffed sequence holds
no 0x01 and no 0x02, each 0x03 in it is followed by 0x04, 0x05 or 0x06, and it is longer by the number of bytes in
{0x01, 0x02, 0x03}. -/
def Obligations.StuffingRemovesDelimiterBytes : Prop :=
  (stuffBytes [] = [] ∧ ∀ (b : Byte) (x : List Byte),
    stuffBytes (b :: x) = (if b = 0x01 then [0x03, 0x04] else if b = 0x02 then [0x03, 0x05]
      else if b = 0x03 then [0x03, 0x06] else [b]) ++ stuffBytes x)
  ∧ ∀ x : List Byte,
    (∀ b ∈ stuffBytes x, b ≠ 0x01 ∧ b ≠ 0x02)
    ∧ (∀ n : Nat, (stuffBytes x)[n]? = some 0x03 → ∃ d, (stuffBytes x)[n + 1]? = some d ∧ (d = 0x04 ∨ d = 0x05 ∨ d = 0x06))
    ∧ (stuffBytes x).length = x.length + x.countP (fun b => b == 0x01 || b == 0x02 || b == 0x03)

/-- 42_framer.md R168: Unstuff(Stuff(x)) = x for every x. -/
def Obligations.UnstuffRecoversStuffedBytes : Prop :=
  ∀ x : List Byte, unstuffBytes (stuffBytes x) = some x

/-- 42_framer.md R163, R165 to R167: with s = 0 the frame is |Y| + 7 bytes; with s = 1 it is longer by the stuffed bytes of
the same inner buffer; for a legal payload it is 7 to 4108 bytes and fits OUT_MEM. -/
def Obligations.FrameLengthFitsOutMem : Prop :=
  ∀ (cmd : Byte) (y : List Byte) (s : Bool),
    (frameBytes cmd y false).length = y.length + 7
    ∧ (frameBytes cmd y true).length
        = y.length + 7 + (innerBuffer cmd y).countP (fun b => b == 0x01 || b == 0x02 || b == 0x03)
    ∧ (innerBuffer cmd y).length = y.length + 5
    ∧ (innerBuffer cmd y).countP (fun b => b == 0x01 || b == 0x02 || b == 0x03) ≤ y.length + 5
    ∧ (y.length ≤ 2048 → 7 ≤ (frameBytes cmd y s).length ∧ (frameBytes cmd y s).length ≤ 4108
        ∧ (frameBytes cmd y s).length ≤ outSize)

/-! ### The sequencer -/

/-- 43_control.md R184, 60_exceptions.md R216: a tick with more than one tick left only counts down; the last one is the
completion; no turn but a tick or a hardware reset changes SEQ while a command runs; a tick of an idle block changes
nothing. That a step with no turn waiting is a tick is the model's choice (log 13). -/
def Obligations.OnlyTicksAdvanceARunningCommand : Prop :=
  (∀ (s : State) (snap : Snapshot) (k : Nat), s.seq = .run snap k →
    (∀ rest, s.turns = .tick :: rest ∨ (s.turns = [] ∧ rest = []) →
      (2 ≤ k → step s = .next { s with seq := .run snap (k - 1), turns := rest })
      ∧ (k = 1 → step s = .next (complete snap { s with turns := rest })))
    ∧ ∀ (x : Turn) (rest : List Turn) (t : State), s.turns = x :: rest → x ≠ .tick → x ≠ .reset →
        step s = .next t → t.seq = s.seq)
  ∧ ∀ s : State, s.seq = .idle →
    (∀ rest, s.turns = .tick :: rest → step s = .next { s with turns := rest })
    ∧ (s.turns = [] → step s = .next s)

/-- 43_control.md R183, R188, 30_encoding.md R94: a completion sets DONE, clears BUSY, and changes no register, no STATUS
bit and no byte of memory outside the command's write set. -/
def Obligations.CompletionChangesOnlyTheWriteSet : Prop :=
  ∀ (s : State) (snap : Snapshot),
    (complete snap s).done = true ∧ (complete snap s).busy = false
    ∧ (∀ r, r ≠ .status → snap.writesCsr r = false → (complete snap s).csrWord r = s.csrWord r)
    ∧ (∀ i, 2 ≤ i → snap.statusMask.getLsbD i = false →
      (complete snap s).statusWord.getLsbD i = s.statusWord.getLsbD i)
    ∧ ∀ a, (complete snap s).mem.read a ≠ s.mem.read a →
      (snap.writesImage = true ∧ ((0x3000 ≤ a ∧ a < 0x3400) ∨ (0x4000 ≤ a ∧ a < 0x5000)))
      ∨ (0x3400 ≤ a ∧ a < 0x3400 + snap.newPackLen) ∨ (0x2000 ≤ a ∧ a < 0x2000 + snap.newPayloadLen)
      ∨ (0x8000 ≤ a ∧ a < 0x8000 + snap.newOutLen)

/-- 20_memory.md R81, R82, 43_control.md R182 to R184, 70_reset_and_hazards.md R240: whatever reads and writes the host
interleaves with a running command's ticks, the block stays busy until the last tick and then holds the result the
command had at first; only DONE, ERR, ERR_CODE and the read-data port depend on the host. -/
def Obligations.HostTurnsDoNotDisturbARunningCommand : Prop :=
  ∀ (s : State) (snap : Snapshot) (k : Nat) (ts : List Turn), s.seq = .run snap k → Turn.reset ∉ ts →
    ts.count .tick + 1 = k →
    (∃ v : State, Sys2Proof.core.run ts.length { s with turns := ts ++ [.tick] } = .next v ∧ v.busy = true)
    ∧ ∃ u : State, Sys2Proof.core.run (ts.length + 1) { s with turns := ts ++ [.tick] } = .next u
      ∧ u.busy = false ∧ u.done = true ∧ u.settled = (complete snap s).settled

/-- 43_control.md R186: ENCODE leaves what QUANTIZE, PACK, BUILD_PAYLOAD and FRAME with FRAME_CMD = 0x44 leave, run one
after the other (the draw count apart). The latencies, the draw count and the ticks of an empty list of turns are the
model's (logs 3, 5, 13). -/
def Obligations.EncodeEqualsTheFourCommandsInOrder : Prop :=
  ∀ s : State, s.Ready → s.PixelsWritten → s.frameCmd = 0x44 →
    ∃ s1 s2 s3 s4 u : State,
      Completes .quantize s s1 ∧ Completes .pack s1 s2 ∧ Completes .buildPayload s2 s3 ∧ Completes .frame s3 s4
      ∧ Completes .encode s u ∧ { s4 with draws := 0 } = { u with draws := 0 }

/-! ### Invariants of every step -/

/-- 20_memory.md R62, 10_state.md R49 to R54: the memory keeps its canonical form and lists only addresses at which a memory
entry keeps a byte (log 6), over every step. -/
def Obligations.StepKeepsMemoryCanonical : Prop :=
  ∀ s t : State, s.MemoryInv → step s = .next t → t.MemoryInv

/-- 10_state.md R34 to R37, 20_memory.md R81 to R83: over every step the valid flags go on meaning what they say. -/
def Obligations.StepKeepsValidFlagsTruthful : Prop :=
  ∀ s t : State, s.ValidInv → step s = .next t → t.ValidInv

/-- The three invariants hold at reset. -/
def Obligations.ResetMeetsTheInvariants : Prop :=
  State.reset.MemoryInv ∧ State.reset.ErrorInv ∧ State.reset.ValidInv

/-- 10_state.md R34: QVALID is set only by the completion of QUANTIZE or ENCODE, and cleared only by an accepted host
write to PIXEL_MEM, by SOFT_RESET or by hardware reset. -/
def Obligations.QvalidChangesOnlyByItsCauses : Prop :=
  ∀ s t : State, step s = .next t →
    (s.qvalid = false → t.qvalid = true →
      (s.turns = [] ∨ ∃ rest, s.turns = .tick :: rest) ∧ t.busy = false ∧ t.done = true
      ∧ ∃ k ≤ 1, (∃ px, s.seq = .run (.quantize px) k) ∨ ∃ px b, s.seq = .run (.encode px b) k)
    ∧ (s.qvalid = true → t.qvalid = false →
      (∃ rest, s.turns = .reset :: rest)
      ∨ (s.seq = .idle ∧ ∃ a v rest, s.turns = .write a v :: rest
          ∧ ((∃ p, targetOf a = .pixel p) ∨ (targetOf a = .csr .cmd ∧ v = 0x0000000F))))

/-- 10_state.md R32, R37, 43_control.md R183: DONE and FVALID are set only at a completion (a tick that leaves BUSY = 0),
FVALID only at that of FRAME or ENCODE; DONE is cleared only by a write to STATUS with bit 1 set, by SOFT_RESET or by
hardware reset, and FVALID only by SOFT_RESET or hardware reset. -/
def Obligations.DoneAndFvalidChangeOnlyByTheirCauses : Prop :=
  ∀ s t : State, step s = .next t →
    (s.done = false → t.done = true →
      s.busy = true ∧ t.busy = false ∧ (s.turns = [] ∨ ∃ rest, s.turns = .tick :: rest))
    ∧ (s.fvalid = false → t.fvalid = true →
      (s.turns = [] ∨ ∃ rest, s.turns = .tick :: rest) ∧ t.busy = false ∧ t.done = true
      ∧ ∃ k ≤ 1, (∃ c m y b, s.seq = .run (.frame c m y b) k) ∨ ∃ px b, s.seq = .run (.encode px b) k)
    ∧ (s.done = true → t.done = false →
      (∃ rest, s.turns = .reset :: rest)
      ∨ (∃ a v rest, s.turns = .write a v :: rest ∧ targetOf a = .csr .status ∧ v.getLsbD 1 = true)
      ∨ (s.seq = .idle ∧ ∃ a rest, s.turns = .write a 0x0000000F :: rest ∧ targetOf a = .csr .cmd))
    ∧ (s.fvalid = true → t.fvalid = false →
      (∃ rest, s.turns = .reset :: rest)
      ∨ (s.seq = .idle ∧ ∃ a rest, s.turns = .write a 0x0000000F :: rest ∧ targetOf a = .csr .cmd))

/-- 10_state.md R49, 40_quantizer.md R118: no command writes PIXEL_MEM: a byte of it changes only by an accepted host write
to its entry, or by hardware reset. -/
def Obligations.PixelMemChangesOnlyByTheHost : Prop :=
  ∀ (s t : State) (a : Nat), step s = .next t → 0x1000 ≤ a → a < 0x2000 → t.mem.read a ≠ s.mem.read a →
    (∃ rest, s.turns = .reset :: rest)
    ∨ (s.seq = .idle ∧ ∃ b v rest, s.turns = .write b v :: rest ∧ targetOf b = .pixel ((a - 0x1000) / 4))

/-! ### The address map -/

/-- 20_memory.md R60, R62, 10_state.md R26, R48: what every address of the window names: the thirteen registers at their
offsets, each memory's words in order, and reserved everywhere else. -/
def Obligations.AddressMapNamesEveryWord : Prop :=
  ∀ a : Addr,
    let w := a.toNat / 4
    (targetOf a = .csr .id ↔ w = 0) ∧ (targetOf a = .csr .ctrl ↔ w = 1) ∧ (targetOf a = .csr .cmd ↔ w = 2)
    ∧ (targetOf a = .csr .status ↔ w = 3) ∧ (targetOf a = .csr .errCode ↔ w = 4)
    ∧ (targetOf a = .csr .frameCmd ↔ w = 5) ∧ (targetOf a = .csr .payloadLen ↔ w = 6)
    ∧ (targetOf a = .csr .palCount ↔ w = 7) ∧ (targetOf a = .csr .bitWidth ↔ w = 8)
    ∧ (targetOf a = .csr .packLen ↔ w = 9) ∧ (targetOf a = .csr .innerLen ↔ w = 10)
    ∧ (targetOf a = .csr .checksum ↔ w = 11) ∧ (targetOf a = .csr .outLen ↔ w = 12)
    ∧ (∀ p, targetOf a = .pixel p ↔ p < 1024 ∧ 4 * w = 0x1000 + 4 * p)
    ∧ (∀ k, targetOf a = .payload k ↔ k < 512 ∧ 4 * w = 0x2000 + 4 * k)
    ∧ (∀ i, targetOf a = .palette i ↔ i < 256 ∧ 4 * w = 0x3000 + 4 * i)
    ∧ (∀ k, targetOf a = .pack k ↔ k < 256 ∧ 4 * w = 0x3400 + 4 * k)
    ∧ (∀ p, targetOf a = .index p ↔ p < 1024 ∧ 4 * w = 0x4000 + 4 * p)
    ∧ (∀ k, targetOf a = .out k ↔ k < 2048 ∧ 4 * w = 0x8000 + 4 * k)
    ∧ (targetOf a = .reserved ↔ (0x34 ≤ 4 * w ∧ 4 * w < 0x1000) ∨ (0x2800 ≤ 4 * w ∧ 4 * w < 0x3000)
        ∨ (0x3800 ≤ 4 * w ∧ 4 * w < 0x4000) ∨ (0x5000 ≤ 4 * w ∧ 4 * w < 0x8000) ∨ 0xA000 ≤ 4 * w)
end

