-- ==== Sys2Proof/Laws/State.lean ====
section
/-! SUPPORT. One lemma per field of State per update, each true by rfl, so that no proof unfolds a record
update. -/

namespace Sys2Proof.Machine

variable (s : State)

/-! ### finish -/

@[simp] theorem finish_seq : s.finish.seq = .idle := rfl
@[simp] theorem finish_stuff : s.finish.stuff = s.stuff := rfl
@[simp] theorem finish_irqEn : s.finish.irqEn = s.irqEn := rfl
@[simp] theorem finish_done : s.finish.done = true := rfl
@[simp] theorem finish_err : s.finish.err = s.err := rfl
@[simp] theorem finish_qvalid : s.finish.qvalid = s.qvalid := rfl
@[simp] theorem finish_pvalid : s.finish.pvalid = s.pvalid := rfl
@[simp] theorem finish_yvalid : s.finish.yvalid = s.yvalid := rfl
@[simp] theorem finish_fvalid : s.finish.fvalid = s.fvalid := rfl
@[simp] theorem finish_reduced : s.finish.reduced = s.reduced := rfl
@[simp] theorem finish_errCode : s.finish.errCode = s.errCode := rfl
@[simp] theorem finish_frameCmd : s.finish.frameCmd = s.frameCmd := rfl
@[simp] theorem finish_payloadLen : s.finish.payloadLen = s.payloadLen := rfl
@[simp] theorem finish_palCount : s.finish.palCount = s.palCount := rfl
@[simp] theorem finish_bitWidth : s.finish.bitWidth = s.bitWidth := rfl
@[simp] theorem finish_packLen : s.finish.packLen = s.packLen := rfl
@[simp] theorem finish_innerLen : s.finish.innerLen = s.innerLen := rfl
@[simp] theorem finish_checksum : s.finish.checksum = s.checksum := rfl
@[simp] theorem finish_outLen : s.finish.outLen = s.outLen := rfl
@[simp] theorem finish_mem : s.finish.mem = s.mem := rfl
@[simp] theorem finish_rdata : s.finish.rdata = s.rdata := rfl
@[simp] theorem finish_turns : s.finish.turns = s.turns := rfl
@[simp] theorem finish_draws : s.finish.draws = s.draws := rfl

/-! ### raiseError -/

@[simp] theorem raiseError_seq (c : ErrorCode) : (raiseError c s).seq = s.seq := rfl
@[simp] theorem raiseError_stuff (c : ErrorCode) : (raiseError c s).stuff = s.stuff := rfl
@[simp] theorem raiseError_irqEn (c : ErrorCode) : (raiseError c s).irqEn = s.irqEn := rfl
@[simp] theorem raiseError_done (c : ErrorCode) : (raiseError c s).done = s.done := rfl
@[simp] theorem raiseError_err (c : ErrorCode) : (raiseError c s).err = true := rfl
@[simp] theorem raiseError_qvalid (c : ErrorCode) : (raiseError c s).qvalid = s.qvalid := rfl
@[simp] theorem raiseError_pvalid (c : ErrorCode) : (raiseError c s).pvalid = s.pvalid := rfl
@[simp] theorem raiseError_yvalid (c : ErrorCode) : (raiseError c s).yvalid = s.yvalid := rfl
@[simp] theorem raiseError_fvalid (c : ErrorCode) : (raiseError c s).fvalid = s.fvalid := rfl
@[simp] theorem raiseError_reduced (c : ErrorCode) : (raiseError c s).reduced = s.reduced := rfl
@[simp] theorem raiseError_errCode (c : ErrorCode) :
    (raiseError c s).errCode = if s.err then s.errCode else c.bits := rfl
@[simp] theorem raiseError_frameCmd (c : ErrorCode) : (raiseError c s).frameCmd = s.frameCmd := rfl
@[simp] theorem raiseError_payloadLen (c : ErrorCode) : (raiseError c s).payloadLen = s.payloadLen := rfl
@[simp] theorem raiseError_palCount (c : ErrorCode) : (raiseError c s).palCount = s.palCount := rfl
@[simp] theorem raiseError_bitWidth (c : ErrorCode) : (raiseError c s).bitWidth = s.bitWidth := rfl
@[simp] theorem raiseError_packLen (c : ErrorCode) : (raiseError c s).packLen = s.packLen := rfl
@[simp] theorem raiseError_innerLen (c : ErrorCode) : (raiseError c s).innerLen = s.innerLen := rfl
@[simp] theorem raiseError_checksum (c : ErrorCode) : (raiseError c s).checksum = s.checksum := rfl
@[simp] theorem raiseError_outLen (c : ErrorCode) : (raiseError c s).outLen = s.outLen := rfl
@[simp] theorem raiseError_mem (c : ErrorCode) : (raiseError c s).mem = s.mem := rfl
@[simp] theorem raiseError_rdata (c : ErrorCode) : (raiseError c s).rdata = s.rdata := rfl
@[simp] theorem raiseError_turns (c : ErrorCode) : (raiseError c s).turns = s.turns := rfl
@[simp] theorem raiseError_draws (c : ErrorCode) : (raiseError c s).draws = s.draws := rfl

/-! ### accept -/

@[simp] theorem accept_seq (snap : Snapshot) : (accept snap s).seq = .run snap (latency snap s.draws) := rfl
@[simp] theorem accept_stuff (snap : Snapshot) : (accept snap s).stuff = s.stuff := rfl
@[simp] theorem accept_irqEn (snap : Snapshot) : (accept snap s).irqEn = s.irqEn := rfl
@[simp] theorem accept_done (snap : Snapshot) : (accept snap s).done = s.done := rfl
@[simp] theorem accept_err (snap : Snapshot) : (accept snap s).err = s.err := rfl
@[simp] theorem accept_qvalid (snap : Snapshot) : (accept snap s).qvalid = s.qvalid := rfl
@[simp] theorem accept_pvalid (snap : Snapshot) : (accept snap s).pvalid = s.pvalid := rfl
@[simp] theorem accept_yvalid (snap : Snapshot) : (accept snap s).yvalid = s.yvalid := rfl
@[simp] theorem accept_fvalid (snap : Snapshot) : (accept snap s).fvalid = s.fvalid := rfl
@[simp] theorem accept_reduced (snap : Snapshot) : (accept snap s).reduced = s.reduced := rfl
@[simp] theorem accept_errCode (snap : Snapshot) : (accept snap s).errCode = s.errCode := rfl
@[simp] theorem accept_frameCmd (snap : Snapshot) : (accept snap s).frameCmd = s.frameCmd := rfl
@[simp] theorem accept_payloadLen (snap : Snapshot) : (accept snap s).payloadLen = s.payloadLen := rfl
@[simp] theorem accept_palCount (snap : Snapshot) : (accept snap s).palCount = s.palCount := rfl
@[simp] theorem accept_bitWidth (snap : Snapshot) : (accept snap s).bitWidth = s.bitWidth := rfl
@[simp] theorem accept_packLen (snap : Snapshot) : (accept snap s).packLen = s.packLen := rfl
@[simp] theorem accept_innerLen (snap : Snapshot) : (accept snap s).innerLen = s.innerLen := rfl
@[simp] theorem accept_checksum (snap : Snapshot) : (accept snap s).checksum = s.checksum := rfl
@[simp] theorem accept_outLen (snap : Snapshot) : (accept snap s).outLen = s.outLen := rfl
@[simp] theorem accept_mem (snap : Snapshot) : (accept snap s).mem = s.mem := rfl
@[simp] theorem accept_rdata (snap : Snapshot) : (accept snap s).rdata = s.rdata := rfl
@[simp] theorem accept_turns (snap : Snapshot) : (accept snap s).turns = s.turns := rfl
@[simp] theorem accept_draws (snap : Snapshot) : (accept snap s).draws = s.draws + 1 := rfl

/-! ### resetCsrs -/

@[simp] theorem resetCsrs_seq : (resetCsrs s).seq = s.seq := rfl
@[simp] theorem resetCsrs_stuff : (resetCsrs s).stuff = Config.stuffReset := rfl
@[simp] theorem resetCsrs_irqEn : (resetCsrs s).irqEn = false := rfl
@[simp] theorem resetCsrs_done : (resetCsrs s).done = false := rfl
@[simp] theorem resetCsrs_err : (resetCsrs s).err = false := rfl
@[simp] theorem resetCsrs_qvalid : (resetCsrs s).qvalid = false := rfl
@[simp] theorem resetCsrs_pvalid : (resetCsrs s).pvalid = false := rfl
@[simp] theorem resetCsrs_yvalid : (resetCsrs s).yvalid = false := rfl
@[simp] theorem resetCsrs_fvalid : (resetCsrs s).fvalid = false := rfl
@[simp] theorem resetCsrs_reduced : (resetCsrs s).reduced = false := rfl
@[simp] theorem resetCsrs_errCode : (resetCsrs s).errCode = 0 := rfl
@[simp] theorem resetCsrs_frameCmd : (resetCsrs s).frameCmd = 0x44 := rfl
@[simp] theorem resetCsrs_payloadLen : (resetCsrs s).payloadLen = 0 := rfl
@[simp] theorem resetCsrs_palCount : (resetCsrs s).palCount = 0 := rfl
@[simp] theorem resetCsrs_bitWidth : (resetCsrs s).bitWidth = 0 := rfl
@[simp] theorem resetCsrs_packLen : (resetCsrs s).packLen = 0 := rfl
@[simp] theorem resetCsrs_innerLen : (resetCsrs s).innerLen = 0 := rfl
@[simp] theorem resetCsrs_checksum : (resetCsrs s).checksum = 0 := rfl
@[simp] theorem resetCsrs_outLen : (resetCsrs s).outLen = 0 := rfl
@[simp] theorem resetCsrs_mem : (resetCsrs s).mem = s.mem := rfl
@[simp] theorem resetCsrs_rdata : (resetCsrs s).rdata = s.rdata := rfl
@[simp] theorem resetCsrs_turns : (resetCsrs s).turns = s.turns := rfl
@[simp] theorem resetCsrs_draws : (resetCsrs s).draws = s.draws := rfl

/-! ### hardwareReset -/

@[simp] theorem hardwareReset_seq : (hardwareReset s).seq = .idle := rfl
@[simp] theorem hardwareReset_stuff : (hardwareReset s).stuff = Config.stuffReset := rfl
@[simp] theorem hardwareReset_irqEn : (hardwareReset s).irqEn = false := rfl
@[simp] theorem hardwareReset_done : (hardwareReset s).done = false := rfl
@[simp] theorem hardwareReset_err : (hardwareReset s).err = false := rfl
@[simp] theorem hardwareReset_qvalid : (hardwareReset s).qvalid = false := rfl
@[simp] theorem hardwareReset_pvalid : (hardwareReset s).pvalid = false := rfl
@[simp] theorem hardwareReset_yvalid : (hardwareReset s).yvalid = false := rfl
@[simp] theorem hardwareReset_fvalid : (hardwareReset s).fvalid = false := rfl
@[simp] theorem hardwareReset_reduced : (hardwareReset s).reduced = false := rfl
@[simp] theorem hardwareReset_errCode : (hardwareReset s).errCode = 0 := rfl
@[simp] theorem hardwareReset_frameCmd : (hardwareReset s).frameCmd = 0x44 := rfl
@[simp] theorem hardwareReset_payloadLen : (hardwareReset s).payloadLen = 0 := rfl
@[simp] theorem hardwareReset_palCount : (hardwareReset s).palCount = 0 := rfl
@[simp] theorem hardwareReset_bitWidth : (hardwareReset s).bitWidth = 0 := rfl
@[simp] theorem hardwareReset_packLen : (hardwareReset s).packLen = 0 := rfl
@[simp] theorem hardwareReset_innerLen : (hardwareReset s).innerLen = 0 := rfl
@[simp] theorem hardwareReset_checksum : (hardwareReset s).checksum = 0 := rfl
@[simp] theorem hardwareReset_outLen : (hardwareReset s).outLen = 0 := rfl
@[simp] theorem hardwareReset_mem : (hardwareReset s).mem = [] := rfl
@[simp] theorem hardwareReset_rdata : (hardwareReset s).rdata = s.rdata := rfl
@[simp] theorem hardwareReset_turns : (hardwareReset s).turns = s.turns := rfl
@[simp] theorem hardwareReset_draws : (hardwareReset s).draws = s.draws := rfl

/-! ### invalidateImage -/

@[simp] theorem invalidateImage_seq : s.invalidateImage.seq = s.seq := rfl
@[simp] theorem invalidateImage_stuff : s.invalidateImage.stuff = s.stuff := rfl
@[simp] theorem invalidateImage_irqEn : s.invalidateImage.irqEn = s.irqEn := rfl
@[simp] theorem invalidateImage_done : s.invalidateImage.done = s.done := rfl
@[simp] theorem invalidateImage_err : s.invalidateImage.err = s.err := rfl
@[simp] theorem invalidateImage_qvalid : s.invalidateImage.qvalid = false := rfl
@[simp] theorem invalidateImage_pvalid : s.invalidateImage.pvalid = false := rfl
@[simp] theorem invalidateImage_yvalid : s.invalidateImage.yvalid = false := rfl
@[simp] theorem invalidateImage_fvalid : s.invalidateImage.fvalid = s.fvalid := rfl
@[simp] theorem invalidateImage_reduced : s.invalidateImage.reduced = s.reduced := rfl
@[simp] theorem invalidateImage_errCode : s.invalidateImage.errCode = s.errCode := rfl
@[simp] theorem invalidateImage_frameCmd : s.invalidateImage.frameCmd = s.frameCmd := rfl
@[simp] theorem invalidateImage_payloadLen : s.invalidateImage.payloadLen = s.payloadLen := rfl
@[simp] theorem invalidateImage_palCount : s.invalidateImage.palCount = s.palCount := rfl
@[simp] theorem invalidateImage_bitWidth : s.invalidateImage.bitWidth = s.bitWidth := rfl
@[simp] theorem invalidateImage_packLen : s.invalidateImage.packLen = s.packLen := rfl
@[simp] theorem invalidateImage_innerLen : s.invalidateImage.innerLen = s.innerLen := rfl
@[simp] theorem invalidateImage_checksum : s.invalidateImage.checksum = s.checksum := rfl
@[simp] theorem invalidateImage_outLen : s.invalidateImage.outLen = s.outLen := rfl
@[simp] theorem invalidateImage_mem : s.invalidateImage.mem = s.mem := rfl
@[simp] theorem invalidateImage_rdata : s.invalidateImage.rdata = s.rdata := rfl
@[simp] theorem invalidateImage_turns : s.invalidateImage.turns = s.turns := rfl
@[simp] theorem invalidateImage_draws : s.invalidateImage.draws = s.draws := rfl

/-! ### invalidatePayload -/

@[simp] theorem invalidatePayload_seq : s.invalidatePayload.seq = s.seq := rfl
@[simp] theorem invalidatePayload_stuff : s.invalidatePayload.stuff = s.stuff := rfl
@[simp] theorem invalidatePayload_irqEn : s.invalidatePayload.irqEn = s.irqEn := rfl
@[simp] theorem invalidatePayload_done : s.invalidatePayload.done = s.done := rfl
@[simp] theorem invalidatePayload_err : s.invalidatePayload.err = s.err := rfl
@[simp] theorem invalidatePayload_qvalid : s.invalidatePayload.qvalid = s.qvalid := rfl
@[simp] theorem invalidatePayload_pvalid : s.invalidatePayload.pvalid = s.pvalid := rfl
@[simp] theorem invalidatePayload_yvalid : s.invalidatePayload.yvalid = false := rfl
@[simp] theorem invalidatePayload_fvalid : s.invalidatePayload.fvalid = s.fvalid := rfl
@[simp] theorem invalidatePayload_reduced : s.invalidatePayload.reduced = s.reduced := rfl
@[simp] theorem invalidatePayload_errCode : s.invalidatePayload.errCode = s.errCode := rfl
@[simp] theorem invalidatePayload_frameCmd : s.invalidatePayload.frameCmd = s.frameCmd := rfl
@[simp] theorem invalidatePayload_payloadLen : s.invalidatePayload.payloadLen = s.payloadLen := rfl
@[simp] theorem invalidatePayload_palCount : s.invalidatePayload.palCount = s.palCount := rfl
@[simp] theorem invalidatePayload_bitWidth : s.invalidatePayload.bitWidth = s.bitWidth := rfl
@[simp] theorem invalidatePayload_packLen : s.invalidatePayload.packLen = s.packLen := rfl
@[simp] theorem invalidatePayload_innerLen : s.invalidatePayload.innerLen = s.innerLen := rfl
@[simp] theorem invalidatePayload_checksum : s.invalidatePayload.checksum = s.checksum := rfl
@[simp] theorem invalidatePayload_outLen : s.invalidatePayload.outLen = s.outLen := rfl
@[simp] theorem invalidatePayload_mem : s.invalidatePayload.mem = s.mem := rfl
@[simp] theorem invalidatePayload_rdata : s.invalidatePayload.rdata = s.rdata := rfl
@[simp] theorem invalidatePayload_turns : s.invalidatePayload.turns = s.turns := rfl
@[simp] theorem invalidatePayload_draws : s.invalidatePayload.draws = s.draws := rfl

/-! ### writeStatus -/

@[simp] theorem writeStatus_seq (v : Word) : (s.writeStatus v).seq = s.seq := rfl
@[simp] theorem writeStatus_stuff (v : Word) : (s.writeStatus v).stuff = s.stuff := rfl
@[simp] theorem writeStatus_irqEn (v : Word) : (s.writeStatus v).irqEn = s.irqEn := rfl
@[simp] theorem writeStatus_done (v : Word) : (s.writeStatus v).done = (s.done && !v.getLsbD 1) := rfl
@[simp] theorem writeStatus_err (v : Word) : (s.writeStatus v).err = (s.err && !v.getLsbD 2) := rfl
@[simp] theorem writeStatus_qvalid (v : Word) : (s.writeStatus v).qvalid = s.qvalid := rfl
@[simp] theorem writeStatus_pvalid (v : Word) : (s.writeStatus v).pvalid = s.pvalid := rfl
@[simp] theorem writeStatus_yvalid (v : Word) : (s.writeStatus v).yvalid = s.yvalid := rfl
@[simp] theorem writeStatus_fvalid (v : Word) : (s.writeStatus v).fvalid = s.fvalid := rfl
@[simp] theorem writeStatus_reduced (v : Word) : (s.writeStatus v).reduced = s.reduced := rfl
@[simp] theorem writeStatus_errCode (v : Word) :
    (s.writeStatus v).errCode = if v.getLsbD 2 then 0 else s.errCode := rfl
@[simp] theorem writeStatus_frameCmd (v : Word) : (s.writeStatus v).frameCmd = s.frameCmd := rfl
@[simp] theorem writeStatus_payloadLen (v : Word) : (s.writeStatus v).payloadLen = s.payloadLen := rfl
@[simp] theorem writeStatus_palCount (v : Word) : (s.writeStatus v).palCount = s.palCount := rfl
@[simp] theorem writeStatus_bitWidth (v : Word) : (s.writeStatus v).bitWidth = s.bitWidth := rfl
@[simp] theorem writeStatus_packLen (v : Word) : (s.writeStatus v).packLen = s.packLen := rfl
@[simp] theorem writeStatus_innerLen (v : Word) : (s.writeStatus v).innerLen = s.innerLen := rfl
@[simp] theorem writeStatus_checksum (v : Word) : (s.writeStatus v).checksum = s.checksum := rfl
@[simp] theorem writeStatus_outLen (v : Word) : (s.writeStatus v).outLen = s.outLen := rfl
@[simp] theorem writeStatus_mem (v : Word) : (s.writeStatus v).mem = s.mem := rfl
@[simp] theorem writeStatus_rdata (v : Word) : (s.writeStatus v).rdata = s.rdata := rfl
@[simp] theorem writeStatus_turns (v : Word) : (s.writeStatus v).turns = s.turns := rfl
@[simp] theorem writeStatus_draws (v : Word) : (s.writeStatus v).draws = s.draws := rfl

/-! ### writeCtrl -/

@[simp] theorem writeCtrl_seq (v : Word) : (s.writeCtrl v).seq = s.seq := rfl
@[simp] theorem writeCtrl_stuff (v : Word) : (s.writeCtrl v).stuff = v.getLsbD 0 := rfl
@[simp] theorem writeCtrl_irqEn (v : Word) : (s.writeCtrl v).irqEn = v.getLsbD 1 := rfl
@[simp] theorem writeCtrl_done (v : Word) : (s.writeCtrl v).done = s.done := rfl
@[simp] theorem writeCtrl_err (v : Word) : (s.writeCtrl v).err = s.err := rfl
@[simp] theorem writeCtrl_qvalid (v : Word) : (s.writeCtrl v).qvalid = s.qvalid := rfl
@[simp] theorem writeCtrl_pvalid (v : Word) : (s.writeCtrl v).pvalid = s.pvalid := rfl
@[simp] theorem writeCtrl_yvalid (v : Word) : (s.writeCtrl v).yvalid = s.yvalid := rfl
@[simp] theorem writeCtrl_fvalid (v : Word) : (s.writeCtrl v).fvalid = s.fvalid := rfl
@[simp] theorem writeCtrl_reduced (v : Word) : (s.writeCtrl v).reduced = s.reduced := rfl
@[simp] theorem writeCtrl_errCode (v : Word) : (s.writeCtrl v).errCode = s.errCode := rfl
@[simp] theorem writeCtrl_frameCmd (v : Word) : (s.writeCtrl v).frameCmd = s.frameCmd := rfl
@[simp] theorem writeCtrl_payloadLen (v : Word) : (s.writeCtrl v).payloadLen = s.payloadLen := rfl
@[simp] theorem writeCtrl_palCount (v : Word) : (s.writeCtrl v).palCount = s.palCount := rfl
@[simp] theorem writeCtrl_bitWidth (v : Word) : (s.writeCtrl v).bitWidth = s.bitWidth := rfl
@[simp] theorem writeCtrl_packLen (v : Word) : (s.writeCtrl v).packLen = s.packLen := rfl
@[simp] theorem writeCtrl_innerLen (v : Word) : (s.writeCtrl v).innerLen = s.innerLen := rfl
@[simp] theorem writeCtrl_checksum (v : Word) : (s.writeCtrl v).checksum = s.checksum := rfl
@[simp] theorem writeCtrl_outLen (v : Word) : (s.writeCtrl v).outLen = s.outLen := rfl
@[simp] theorem writeCtrl_mem (v : Word) : (s.writeCtrl v).mem = s.mem := rfl
@[simp] theorem writeCtrl_rdata (v : Word) : (s.writeCtrl v).rdata = s.rdata := rfl
@[simp] theorem writeCtrl_turns (v : Word) : (s.writeCtrl v).turns = s.turns := rfl
@[simp] theorem writeCtrl_draws (v : Word) : (s.writeCtrl v).draws = s.draws := rfl

/-! ### writeFrameCmd -/

@[simp] theorem writeFrameCmd_seq (v : Word) : (s.writeFrameCmd v).seq = s.seq := rfl
@[simp] theorem writeFrameCmd_stuff (v : Word) : (s.writeFrameCmd v).stuff = s.stuff := rfl
@[simp] theorem writeFrameCmd_irqEn (v : Word) : (s.writeFrameCmd v).irqEn = s.irqEn := rfl
@[simp] theorem writeFrameCmd_done (v : Word) : (s.writeFrameCmd v).done = s.done := rfl
@[simp] theorem writeFrameCmd_err (v : Word) : (s.writeFrameCmd v).err = s.err := rfl
@[simp] theorem writeFrameCmd_qvalid (v : Word) : (s.writeFrameCmd v).qvalid = s.qvalid := rfl
@[simp] theorem writeFrameCmd_pvalid (v : Word) : (s.writeFrameCmd v).pvalid = s.pvalid := rfl
@[simp] theorem writeFrameCmd_yvalid (v : Word) : (s.writeFrameCmd v).yvalid = s.yvalid := rfl
@[simp] theorem writeFrameCmd_fvalid (v : Word) : (s.writeFrameCmd v).fvalid = s.fvalid := rfl
@[simp] theorem writeFrameCmd_reduced (v : Word) : (s.writeFrameCmd v).reduced = s.reduced := rfl
@[simp] theorem writeFrameCmd_errCode (v : Word) : (s.writeFrameCmd v).errCode = s.errCode := rfl
@[simp] theorem writeFrameCmd_frameCmd (v : Word) : (s.writeFrameCmd v).frameCmd = v.extractLsb' 0 8 := rfl
@[simp] theorem writeFrameCmd_payloadLen (v : Word) : (s.writeFrameCmd v).payloadLen = s.payloadLen := rfl
@[simp] theorem writeFrameCmd_palCount (v : Word) : (s.writeFrameCmd v).palCount = s.palCount := rfl
@[simp] theorem writeFrameCmd_bitWidth (v : Word) : (s.writeFrameCmd v).bitWidth = s.bitWidth := rfl
@[simp] theorem writeFrameCmd_packLen (v : Word) : (s.writeFrameCmd v).packLen = s.packLen := rfl
@[simp] theorem writeFrameCmd_innerLen (v : Word) : (s.writeFrameCmd v).innerLen = s.innerLen := rfl
@[simp] theorem writeFrameCmd_checksum (v : Word) : (s.writeFrameCmd v).checksum = s.checksum := rfl
@[simp] theorem writeFrameCmd_outLen (v : Word) : (s.writeFrameCmd v).outLen = s.outLen := rfl
@[simp] theorem writeFrameCmd_mem (v : Word) : (s.writeFrameCmd v).mem = s.mem := rfl
@[simp] theorem writeFrameCmd_rdata (v : Word) : (s.writeFrameCmd v).rdata = s.rdata := rfl
@[simp] theorem writeFrameCmd_turns (v : Word) : (s.writeFrameCmd v).turns = s.turns := rfl
@[simp] theorem writeFrameCmd_draws (v : Word) : (s.writeFrameCmd v).draws = s.draws := rfl

/-! ### writePayloadLen -/

@[simp] theorem writePayloadLen_seq (v : Word) : (s.writePayloadLen v).seq = s.seq := rfl
@[simp] theorem writePayloadLen_stuff (v : Word) : (s.writePayloadLen v).stuff = s.stuff := rfl
@[simp] theorem writePayloadLen_irqEn (v : Word) : (s.writePayloadLen v).irqEn = s.irqEn := rfl
@[simp] theorem writePayloadLen_done (v : Word) : (s.writePayloadLen v).done = s.done := rfl
@[simp] theorem writePayloadLen_err (v : Word) : (s.writePayloadLen v).err = s.err := rfl
@[simp] theorem writePayloadLen_qvalid (v : Word) : (s.writePayloadLen v).qvalid = s.qvalid := rfl
@[simp] theorem writePayloadLen_pvalid (v : Word) : (s.writePayloadLen v).pvalid = s.pvalid := rfl
@[simp] theorem writePayloadLen_yvalid (v : Word) : (s.writePayloadLen v).yvalid = false := rfl
@[simp] theorem writePayloadLen_fvalid (v : Word) : (s.writePayloadLen v).fvalid = s.fvalid := rfl
@[simp] theorem writePayloadLen_reduced (v : Word) : (s.writePayloadLen v).reduced = s.reduced := rfl
@[simp] theorem writePayloadLen_errCode (v : Word) : (s.writePayloadLen v).errCode = s.errCode := rfl
@[simp] theorem writePayloadLen_frameCmd (v : Word) : (s.writePayloadLen v).frameCmd = s.frameCmd := rfl
@[simp] theorem writePayloadLen_payloadLen (v : Word) :
    (s.writePayloadLen v).payloadLen = v.extractLsb' 0 16 := rfl
@[simp] theorem writePayloadLen_palCount (v : Word) : (s.writePayloadLen v).palCount = s.palCount := rfl
@[simp] theorem writePayloadLen_bitWidth (v : Word) : (s.writePayloadLen v).bitWidth = s.bitWidth := rfl
@[simp] theorem writePayloadLen_packLen (v : Word) : (s.writePayloadLen v).packLen = s.packLen := rfl
@[simp] theorem writePayloadLen_innerLen (v : Word) : (s.writePayloadLen v).innerLen = s.innerLen := rfl
@[simp] theorem writePayloadLen_checksum (v : Word) : (s.writePayloadLen v).checksum = s.checksum := rfl
@[simp] theorem writePayloadLen_outLen (v : Word) : (s.writePayloadLen v).outLen = s.outLen := rfl
@[simp] theorem writePayloadLen_mem (v : Word) : (s.writePayloadLen v).mem = s.mem := rfl
@[simp] theorem writePayloadLen_rdata (v : Word) : (s.writePayloadLen v).rdata = s.rdata := rfl
@[simp] theorem writePayloadLen_turns (v : Word) : (s.writePayloadLen v).turns = s.turns := rfl
@[simp] theorem writePayloadLen_draws (v : Word) : (s.writePayloadLen v).draws = s.draws := rfl

/-! ### writePixel -/

@[simp] theorem writePixel_seq (p : Nat) (v : Word) : (s.writePixel p v).seq = s.seq := rfl
@[simp] theorem writePixel_stuff (p : Nat) (v : Word) : (s.writePixel p v).stuff = s.stuff := rfl
@[simp] theorem writePixel_irqEn (p : Nat) (v : Word) : (s.writePixel p v).irqEn = s.irqEn := rfl
@[simp] theorem writePixel_done (p : Nat) (v : Word) : (s.writePixel p v).done = s.done := rfl
@[simp] theorem writePixel_err (p : Nat) (v : Word) : (s.writePixel p v).err = s.err := rfl
@[simp] theorem writePixel_qvalid (p : Nat) (v : Word) : (s.writePixel p v).qvalid = false := rfl
@[simp] theorem writePixel_pvalid (p : Nat) (v : Word) : (s.writePixel p v).pvalid = false := rfl
@[simp] theorem writePixel_yvalid (p : Nat) (v : Word) : (s.writePixel p v).yvalid = false := rfl
@[simp] theorem writePixel_fvalid (p : Nat) (v : Word) : (s.writePixel p v).fvalid = s.fvalid := rfl
@[simp] theorem writePixel_reduced (p : Nat) (v : Word) : (s.writePixel p v).reduced = s.reduced := rfl
@[simp] theorem writePixel_errCode (p : Nat) (v : Word) : (s.writePixel p v).errCode = s.errCode := rfl
@[simp] theorem writePixel_frameCmd (p : Nat) (v : Word) : (s.writePixel p v).frameCmd = s.frameCmd := rfl
@[simp] theorem writePixel_payloadLen (p : Nat) (v : Word) : (s.writePixel p v).payloadLen = s.payloadLen := rfl
@[simp] theorem writePixel_palCount (p : Nat) (v : Word) : (s.writePixel p v).palCount = s.palCount := rfl
@[simp] theorem writePixel_bitWidth (p : Nat) (v : Word) : (s.writePixel p v).bitWidth = s.bitWidth := rfl
@[simp] theorem writePixel_packLen (p : Nat) (v : Word) : (s.writePixel p v).packLen = s.packLen := rfl
@[simp] theorem writePixel_innerLen (p : Nat) (v : Word) : (s.writePixel p v).innerLen = s.innerLen := rfl
@[simp] theorem writePixel_checksum (p : Nat) (v : Word) : (s.writePixel p v).checksum = s.checksum := rfl
@[simp] theorem writePixel_outLen (p : Nat) (v : Word) : (s.writePixel p v).outLen = s.outLen := rfl
@[simp] theorem writePixel_mem (p : Nat) (v : Word) :
    (s.writePixel p v).mem = s.mem.replace (pixelBase + 4 * p) (pixelBase + 4 * p + 4) (colourCells (pixelBase + 4 * p) [colourOfWord v]) := rfl
@[simp] theorem writePixel_rdata (p : Nat) (v : Word) : (s.writePixel p v).rdata = s.rdata := rfl
@[simp] theorem writePixel_turns (p : Nat) (v : Word) : (s.writePixel p v).turns = s.turns := rfl
@[simp] theorem writePixel_draws (p : Nat) (v : Word) : (s.writePixel p v).draws = s.draws := rfl

/-! ### writePayload -/

@[simp] theorem writePayload_seq (k : Nat) (v : Word) : (s.writePayload k v).seq = s.seq := rfl
@[simp] theorem writePayload_stuff (k : Nat) (v : Word) : (s.writePayload k v).stuff = s.stuff := rfl
@[simp] theorem writePayload_irqEn (k : Nat) (v : Word) : (s.writePayload k v).irqEn = s.irqEn := rfl
@[simp] theorem writePayload_done (k : Nat) (v : Word) : (s.writePayload k v).done = s.done := rfl
@[simp] theorem writePayload_err (k : Nat) (v : Word) : (s.writePayload k v).err = s.err := rfl
@[simp] theorem writePayload_qvalid (k : Nat) (v : Word) : (s.writePayload k v).qvalid = s.qvalid := rfl
@[simp] theorem writePayload_pvalid (k : Nat) (v : Word) : (s.writePayload k v).pvalid = s.pvalid := rfl
@[simp] theorem writePayload_yvalid (k : Nat) (v : Word) : (s.writePayload k v).yvalid = false := rfl
@[simp] theorem writePayload_fvalid (k : Nat) (v : Word) : (s.writePayload k v).fvalid = s.fvalid := rfl
@[simp] theorem writePayload_reduced (k : Nat) (v : Word) : (s.writePayload k v).reduced = s.reduced := rfl
@[simp] theorem writePayload_errCode (k : Nat) (v : Word) : (s.writePayload k v).errCode = s.errCode := rfl
@[simp] theorem writePayload_frameCmd (k : Nat) (v : Word) : (s.writePayload k v).frameCmd = s.frameCmd := rfl
@[simp] theorem writePayload_payloadLen (k : Nat) (v : Word) :
    (s.writePayload k v).payloadLen = s.payloadLen := rfl
@[simp] theorem writePayload_palCount (k : Nat) (v : Word) : (s.writePayload k v).palCount = s.palCount := rfl
@[simp] theorem writePayload_bitWidth (k : Nat) (v : Word) : (s.writePayload k v).bitWidth = s.bitWidth := rfl
@[simp] theorem writePayload_packLen (k : Nat) (v : Word) : (s.writePayload k v).packLen = s.packLen := rfl
@[simp] theorem writePayload_innerLen (k : Nat) (v : Word) : (s.writePayload k v).innerLen = s.innerLen := rfl
@[simp] theorem writePayload_checksum (k : Nat) (v : Word) : (s.writePayload k v).checksum = s.checksum := rfl
@[simp] theorem writePayload_outLen (k : Nat) (v : Word) : (s.writePayload k v).outLen = s.outLen := rfl
@[simp] theorem writePayload_mem (k : Nat) (v : Word) :
    (s.writePayload k v).mem = s.mem.replace (payloadBase + 4 * k) (payloadBase + 4 * k + 4) (byteCells (payloadBase + 4 * k) [byteOfWord v 0, byteOfWord v 1, byteOfWord v 2, byteOfWord v 3]) := rfl
@[simp] theorem writePayload_rdata (k : Nat) (v : Word) : (s.writePayload k v).rdata = s.rdata := rfl
@[simp] theorem writePayload_turns (k : Nat) (v : Word) : (s.writePayload k v).turns = s.turns := rfl
@[simp] theorem writePayload_draws (k : Nat) (v : Word) : (s.writePayload k v).draws = s.draws := rfl

/-! ### applyQuantized -/

@[simp] theorem applyQuantized_seq (q : Quantized) : (applyQuantized q s).seq = s.seq := rfl
@[simp] theorem applyQuantized_stuff (q : Quantized) : (applyQuantized q s).stuff = s.stuff := rfl
@[simp] theorem applyQuantized_irqEn (q : Quantized) : (applyQuantized q s).irqEn = s.irqEn := rfl
@[simp] theorem applyQuantized_done (q : Quantized) : (applyQuantized q s).done = s.done := rfl
@[simp] theorem applyQuantized_err (q : Quantized) : (applyQuantized q s).err = s.err := rfl
@[simp] theorem applyQuantized_qvalid (q : Quantized) : (applyQuantized q s).qvalid = true := rfl
@[simp] theorem applyQuantized_pvalid (q : Quantized) : (applyQuantized q s).pvalid = false := rfl
@[simp] theorem applyQuantized_yvalid (q : Quantized) : (applyQuantized q s).yvalid = false := rfl
@[simp] theorem applyQuantized_fvalid (q : Quantized) : (applyQuantized q s).fvalid = s.fvalid := rfl
@[simp] theorem applyQuantized_reduced (q : Quantized) : (applyQuantized q s).reduced = q.reduced := rfl
@[simp] theorem applyQuantized_errCode (q : Quantized) : (applyQuantized q s).errCode = s.errCode := rfl
@[simp] theorem applyQuantized_frameCmd (q : Quantized) : (applyQuantized q s).frameCmd = s.frameCmd := rfl
@[simp] theorem applyQuantized_payloadLen (q : Quantized) : (applyQuantized q s).payloadLen = s.payloadLen := rfl
@[simp] theorem applyQuantized_palCount (q : Quantized) :
    (applyQuantized q s).palCount = BitVec.ofNat 9 q.palette.length := rfl
@[simp] theorem applyQuantized_bitWidth (q : Quantized) : (applyQuantized q s).bitWidth = s.bitWidth := rfl
@[simp] theorem applyQuantized_packLen (q : Quantized) : (applyQuantized q s).packLen = s.packLen := rfl
@[simp] theorem applyQuantized_innerLen (q : Quantized) : (applyQuantized q s).innerLen = s.innerLen := rfl
@[simp] theorem applyQuantized_checksum (q : Quantized) : (applyQuantized q s).checksum = s.checksum := rfl
@[simp] theorem applyQuantized_outLen (q : Quantized) : (applyQuantized q s).outLen = s.outLen := rfl
@[simp] theorem applyQuantized_mem (q : Quantized) :
    (applyQuantized q s).mem = (s.mem.storePalette q.palette).storeIndices (indexBytes q.indices) := rfl
@[simp] theorem applyQuantized_rdata (q : Quantized) : (applyQuantized q s).rdata = s.rdata := rfl
@[simp] theorem applyQuantized_turns (q : Quantized) : (applyQuantized q s).turns = s.turns := rfl
@[simp] theorem applyQuantized_draws (q : Quantized) : (applyQuantized q s).draws = s.draws := rfl

/-! ### applyPacked -/

@[simp] theorem applyPacked_seq (w : Nat) (b : List Byte) : (applyPacked w b s).seq = s.seq := rfl
@[simp] theorem applyPacked_stuff (w : Nat) (b : List Byte) : (applyPacked w b s).stuff = s.stuff := rfl
@[simp] theorem applyPacked_irqEn (w : Nat) (b : List Byte) : (applyPacked w b s).irqEn = s.irqEn := rfl
@[simp] theorem applyPacked_done (w : Nat) (b : List Byte) : (applyPacked w b s).done = s.done := rfl
@[simp] theorem applyPacked_err (w : Nat) (b : List Byte) : (applyPacked w b s).err = s.err := rfl
@[simp] theorem applyPacked_qvalid (w : Nat) (b : List Byte) : (applyPacked w b s).qvalid = s.qvalid := rfl
@[simp] theorem applyPacked_pvalid (w : Nat) (b : List Byte) : (applyPacked w b s).pvalid = true := rfl
@[simp] theorem applyPacked_yvalid (w : Nat) (b : List Byte) : (applyPacked w b s).yvalid = false := rfl
@[simp] theorem applyPacked_fvalid (w : Nat) (b : List Byte) : (applyPacked w b s).fvalid = s.fvalid := rfl
@[simp] theorem applyPacked_reduced (w : Nat) (b : List Byte) : (applyPacked w b s).reduced = s.reduced := rfl
@[simp] theorem applyPacked_errCode (w : Nat) (b : List Byte) : (applyPacked w b s).errCode = s.errCode := rfl
@[simp] theorem applyPacked_frameCmd (w : Nat) (b : List Byte) : (applyPacked w b s).frameCmd = s.frameCmd := rfl
@[simp] theorem applyPacked_payloadLen (w : Nat) (b : List Byte) :
    (applyPacked w b s).payloadLen = s.payloadLen := rfl
@[simp] theorem applyPacked_palCount (w : Nat) (b : List Byte) : (applyPacked w b s).palCount = s.palCount := rfl
@[simp] theorem applyPacked_bitWidth (w : Nat) (b : List Byte) :
    (applyPacked w b s).bitWidth = BitVec.ofNat 4 w := rfl
@[simp] theorem applyPacked_packLen (w : Nat) (b : List Byte) :
    (applyPacked w b s).packLen = BitVec.ofNat 11 b.length := rfl
@[simp] theorem applyPacked_innerLen (w : Nat) (b : List Byte) : (applyPacked w b s).innerLen = s.innerLen := rfl
@[simp] theorem applyPacked_checksum (w : Nat) (b : List Byte) : (applyPacked w b s).checksum = s.checksum := rfl
@[simp] theorem applyPacked_outLen (w : Nat) (b : List Byte) : (applyPacked w b s).outLen = s.outLen := rfl
@[simp] theorem applyPacked_mem (w : Nat) (b : List Byte) :
    (applyPacked w b s).mem = s.mem.storeBytes packBase packSize b := rfl
@[simp] theorem applyPacked_rdata (w : Nat) (b : List Byte) : (applyPacked w b s).rdata = s.rdata := rfl
@[simp] theorem applyPacked_turns (w : Nat) (b : List Byte) : (applyPacked w b s).turns = s.turns := rfl
@[simp] theorem applyPacked_draws (w : Nat) (b : List Byte) : (applyPacked w b s).draws = s.draws := rfl

/-! ### applyPayload -/

@[simp] theorem applyPayload_seq (y : List Byte) : (applyPayload y s).seq = s.seq := rfl
@[simp] theorem applyPayload_stuff (y : List Byte) : (applyPayload y s).stuff = s.stuff := rfl
@[simp] theorem applyPayload_irqEn (y : List Byte) : (applyPayload y s).irqEn = s.irqEn := rfl
@[simp] theorem applyPayload_done (y : List Byte) : (applyPayload y s).done = s.done := rfl
@[simp] theorem applyPayload_err (y : List Byte) : (applyPayload y s).err = s.err := rfl
@[simp] theorem applyPayload_qvalid (y : List Byte) : (applyPayload y s).qvalid = s.qvalid := rfl
@[simp] theorem applyPayload_pvalid (y : List Byte) : (applyPayload y s).pvalid = s.pvalid := rfl
@[simp] theorem applyPayload_yvalid (y : List Byte) : (applyPayload y s).yvalid = true := rfl
@[simp] theorem applyPayload_fvalid (y : List Byte) : (applyPayload y s).fvalid = s.fvalid := rfl
@[simp] theorem applyPayload_reduced (y : List Byte) : (applyPayload y s).reduced = s.reduced := rfl
@[simp] theorem applyPayload_errCode (y : List Byte) : (applyPayload y s).errCode = s.errCode := rfl
@[simp] theorem applyPayload_frameCmd (y : List Byte) : (applyPayload y s).frameCmd = s.frameCmd := rfl
@[simp] theorem applyPayload_payloadLen (y : List Byte) :
    (applyPayload y s).payloadLen = BitVec.ofNat 16 y.length := rfl
@[simp] theorem applyPayload_palCount (y : List Byte) : (applyPayload y s).palCount = s.palCount := rfl
@[simp] theorem applyPayload_bitWidth (y : List Byte) : (applyPayload y s).bitWidth = s.bitWidth := rfl
@[simp] theorem applyPayload_packLen (y : List Byte) : (applyPayload y s).packLen = s.packLen := rfl
@[simp] theorem applyPayload_innerLen (y : List Byte) : (applyPayload y s).innerLen = s.innerLen := rfl
@[simp] theorem applyPayload_checksum (y : List Byte) : (applyPayload y s).checksum = s.checksum := rfl
@[simp] theorem applyPayload_outLen (y : List Byte) : (applyPayload y s).outLen = s.outLen := rfl
@[simp] theorem applyPayload_mem (y : List Byte) :
    (applyPayload y s).mem = s.mem.storeBytes payloadBase payloadSize y := rfl
@[simp] theorem applyPayload_rdata (y : List Byte) : (applyPayload y s).rdata = s.rdata := rfl
@[simp] theorem applyPayload_turns (y : List Byte) : (applyPayload y s).turns = s.turns := rfl
@[simp] theorem applyPayload_draws (y : List Byte) : (applyPayload y s).draws = s.draws := rfl

/-! ### applyFrame -/

@[simp] theorem applyFrame_seq (c : Byte) (y : List Byte) (b : Bool) : (applyFrame c y b s).seq = s.seq := rfl
@[simp] theorem applyFrame_stuff (c : Byte) (y : List Byte) (b : Bool) :
    (applyFrame c y b s).stuff = s.stuff := rfl
@[simp] theorem applyFrame_irqEn (c : Byte) (y : List Byte) (b : Bool) :
    (applyFrame c y b s).irqEn = s.irqEn := rfl
@[simp] theorem applyFrame_done (c : Byte) (y : List Byte) (b : Bool) : (applyFrame c y b s).done = s.done := rfl
@[simp] theorem applyFrame_err (c : Byte) (y : List Byte) (b : Bool) : (applyFrame c y b s).err = s.err := rfl
@[simp] theorem applyFrame_qvalid (c : Byte) (y : List Byte) (b : Bool) :
    (applyFrame c y b s).qvalid = s.qvalid := rfl
@[simp] theorem applyFrame_pvalid (c : Byte) (y : List Byte) (b : Bool) :
    (applyFrame c y b s).pvalid = s.pvalid := rfl
@[simp] theorem applyFrame_yvalid (c : Byte) (y : List Byte) (b : Bool) :
    (applyFrame c y b s).yvalid = s.yvalid := rfl
@[simp] theorem applyFrame_fvalid (c : Byte) (y : List Byte) (b : Bool) : (applyFrame c y b s).fvalid = true := rfl
@[simp] theorem applyFrame_reduced (c : Byte) (y : List Byte) (b : Bool) :
    (applyFrame c y b s).reduced = s.reduced := rfl
@[simp] theorem applyFrame_errCode (c : Byte) (y : List Byte) (b : Bool) :
    (applyFrame c y b s).errCode = s.errCode := rfl
@[simp] theorem applyFrame_frameCmd (c : Byte) (y : List Byte) (b : Bool) :
    (applyFrame c y b s).frameCmd = s.frameCmd := rfl
@[simp] theorem applyFrame_payloadLen (c : Byte) (y : List Byte) (b : Bool) :
    (applyFrame c y b s).payloadLen = s.payloadLen := rfl
@[simp] theorem applyFrame_palCount (c : Byte) (y : List Byte) (b : Bool) :
    (applyFrame c y b s).palCount = s.palCount := rfl
@[simp] theorem applyFrame_bitWidth (c : Byte) (y : List Byte) (b : Bool) :
    (applyFrame c y b s).bitWidth = s.bitWidth := rfl
@[simp] theorem applyFrame_packLen (c : Byte) (y : List Byte) (b : Bool) :
    (applyFrame c y b s).packLen = s.packLen := rfl
@[simp] theorem applyFrame_innerLen (c : Byte) (y : List Byte) (b : Bool) :
    (applyFrame c y b s).innerLen = BitVec.ofNat 16 (innerLength y) := rfl
@[simp] theorem applyFrame_checksum (c : Byte) (y : List Byte) (b : Bool) :
    (applyFrame c y b s).checksum = BitVec.ofNat 16 (frameChecksum c y) := rfl
@[simp] theorem applyFrame_outLen (c : Byte) (y : List Byte) (b : Bool) :
    (applyFrame c y b s).outLen = BitVec.ofNat 14 (frameBytes c y b).length := rfl
@[simp] theorem applyFrame_mem (c : Byte) (y : List Byte) (b : Bool) :
    (applyFrame c y b s).mem = s.mem.storeBytes outBase outSize (frameBytes c y b) := rfl
@[simp] theorem applyFrame_rdata (c : Byte) (y : List Byte) (b : Bool) :
    (applyFrame c y b s).rdata = s.rdata := rfl
@[simp] theorem applyFrame_turns (c : Byte) (y : List Byte) (b : Bool) :
    (applyFrame c y b s).turns = s.turns := rfl
@[simp] theorem applyFrame_draws (c : Byte) (y : List Byte) (b : Bool) :
    (applyFrame c y b s).draws = s.draws := rfl

/-! ### hostRead -/

@[simp] theorem hostRead_seq (a : Addr) : (hostRead a s).seq = s.seq := rfl
@[simp] theorem hostRead_stuff (a : Addr) : (hostRead a s).stuff = s.stuff := rfl
@[simp] theorem hostRead_irqEn (a : Addr) : (hostRead a s).irqEn = s.irqEn := rfl
@[simp] theorem hostRead_done (a : Addr) : (hostRead a s).done = s.done := rfl
@[simp] theorem hostRead_err (a : Addr) : (hostRead a s).err = s.err := rfl
@[simp] theorem hostRead_qvalid (a : Addr) : (hostRead a s).qvalid = s.qvalid := rfl
@[simp] theorem hostRead_pvalid (a : Addr) : (hostRead a s).pvalid = s.pvalid := rfl
@[simp] theorem hostRead_yvalid (a : Addr) : (hostRead a s).yvalid = s.yvalid := rfl
@[simp] theorem hostRead_fvalid (a : Addr) : (hostRead a s).fvalid = s.fvalid := rfl
@[simp] theorem hostRead_reduced (a : Addr) : (hostRead a s).reduced = s.reduced := rfl
@[simp] theorem hostRead_errCode (a : Addr) : (hostRead a s).errCode = s.errCode := rfl
@[simp] theorem hostRead_frameCmd (a : Addr) : (hostRead a s).frameCmd = s.frameCmd := rfl
@[simp] theorem hostRead_payloadLen (a : Addr) : (hostRead a s).payloadLen = s.payloadLen := rfl
@[simp] theorem hostRead_palCount (a : Addr) : (hostRead a s).palCount = s.palCount := rfl
@[simp] theorem hostRead_bitWidth (a : Addr) : (hostRead a s).bitWidth = s.bitWidth := rfl
@[simp] theorem hostRead_packLen (a : Addr) : (hostRead a s).packLen = s.packLen := rfl
@[simp] theorem hostRead_innerLen (a : Addr) : (hostRead a s).innerLen = s.innerLen := rfl
@[simp] theorem hostRead_checksum (a : Addr) : (hostRead a s).checksum = s.checksum := rfl
@[simp] theorem hostRead_outLen (a : Addr) : (hostRead a s).outLen = s.outLen := rfl
@[simp] theorem hostRead_mem (a : Addr) : (hostRead a s).mem = s.mem := rfl
@[simp] theorem hostRead_rdata (a : Addr) : (hostRead a s).rdata = s.memRead a := rfl
@[simp] theorem hostRead_turns (a : Addr) : (hostRead a s).turns = s.turns := rfl
@[simp] theorem hostRead_draws (a : Addr) : (hostRead a s).draws = s.draws + 1 := rfl

/-! ### Views -/

theorem busy_eq_false_iff : s.busy = false ↔ s.seq = .idle := by
  cases h : s.seq <;> simp [State.busy, h]

theorem busy_eq_true_iff : s.busy = true ↔ ∃ snap k, s.seq = .run snap k := by
  cases h : s.seq <;> simp [State.busy, h]

@[simp] theorem busy_of_idle (h : s.seq = .idle) : s.busy = false := (busy_eq_false_iff s).2 h

@[simp] theorem busy_of_run {snap : Snapshot} {k : Nat} (h : s.seq = .run snap k) : s.busy = true :=
  (busy_eq_true_iff s).2 ⟨snap, k, h⟩

@[simp] theorem busy_raiseError (c : ErrorCode) : (raiseError c s).busy = s.busy := rfl
@[simp] theorem busy_finish : s.finish.busy = false := rfl
@[simp] theorem busy_accept (snap : Snapshot) : (accept snap s).busy = true := rfl
@[simp] theorem busy_hostRead (a : Addr) : (hostRead a s).busy = s.busy := rfl
@[simp] theorem irq_resetCsrs : (resetCsrs s).irq = false := rfl
@[simp] theorem irq_hardwareReset : (hardwareReset s).irq = false := rfl

end Sys2Proof.Machine
end

