-- ==== Sys2Proof/Laws/Memory.lean ====
section
/-! SUPPORT. The memory operations: what a read after a write gives, and that every write keeps the canonical
form and the listed addresses. -/

namespace Sys2Proof.Machine

namespace Memory

/-! ### Reads -/

@[simp] theorem read_nil (a : Nat) : Memory.read [] a = none := rfl

theorem read_cons (c : Host.Cell) (m : Memory) (a : Nat) :
    Memory.read (c :: m) a = if a = c.1 then some c.2 else Memory.read m a := by
  obtain ⟨k, v⟩ := c
  by_cases h : a = k
  · subst h; simp [Memory.read]
  · have hb : (a == k) = false := by simpa using h
    simp [Memory.read, List.lookup_cons, h, hb]

theorem read_append (m n : Memory) (a : Nat) : Memory.read (m ++ n) a = (m.read a).or (n.read a) := by
  induction m with
  | nil => simp
  | cons c m ih =>
    rw [List.cons_append, read_cons, read_cons, ih]
    split <;> simp

theorem read_filter (m : Memory) (p : Nat → Bool) (a : Nat) :
    Memory.read (m.filter (fun c => p c.1)) a = if p a then m.read a else none := by
  induction m with
  | nil => simp
  | cons c m ih =>
    rw [List.filter_cons]
    by_cases hc : p c.1 = true
    · rw [if_pos hc, read_cons, read_cons, ih]
      by_cases ha : a = c.1
      · subst ha; simp [hc]
      · simp [ha]
    · rw [if_neg hc, ih, read_cons]
      by_cases ha : a = c.1
      · subst ha; simp [hc]
      · simp [ha]

theorem read_eq_none_of_not_mem {m : Memory} {a : Nat} (h : ∀ c ∈ m, c.1 ≠ a) : m.read a = none := by
  induction m with
  | nil => rfl
  | cons c m ih =>
    rw [read_cons, if_neg (fun e => h c (by simp) e.symm)]
    exact ih fun d hd => h d (by simp [hd])

/-- The cells given to `replace` lie in the replaced range. -/
abbrev Within (cells : Memory) (lo hi : Nat) : Prop := ∀ c ∈ cells, lo ≤ c.1 ∧ c.1 < hi

/-- Everything a `replace` does to reads. -/
theorem read_replace (m : Memory) {lo hi : Nat} {cells : Memory} (hc : Within cells lo hi) (hle : lo ≤ hi) (a : Nat) :
    (m.replace lo hi cells).read a = if lo ≤ a ∧ a < hi then cells.read a else m.read a := by
  unfold Memory.replace
  rw [read_append, read_append, read_filter m (fun k => decide (k < lo)), read_filter m (fun k => decide (hi ≤ k))]
  by_cases h1 : a < lo
  · have hn : cells.read a = none := read_eq_none_of_not_mem fun c hcm e => by have := hc c hcm; omega
    have h2 : ¬ hi ≤ a := by omega
    simp [h1, h2, hn]
  · by_cases h2 : a < hi
    · have h3 : lo ≤ a ∧ a < hi := by omega
      have h4 : ¬ hi ≤ a := by omega
      simp [h1, h2, h3, h4]
    · have hn : cells.read a = none := read_eq_none_of_not_mem fun c hcm e => by have := hc c hcm; omega
      have h4 : hi ≤ a := by omega
      simp [h1, h2, h4, hn]

/-! ### Cells -/

theorem within_byteCells (a : Nat) (bs : List Byte) : Within (byteCells a bs) a (a + bs.length) := by
  induction bs generalizing a with
  | nil => intro c hc; simp [byteCells] at hc
  | cons b bs ih =>
    intro c hc
    rcases List.mem_cons.1 hc with rfl | h
    · simp
    · have := ih (a + 1) c h
      simp only [List.length_cons]; omega

theorem read_byteCells (a : Nat) (bs : List Byte) (x : Nat) :
    Memory.read (byteCells a bs) x = if a ≤ x then bs[x - a]? else none := by
  induction bs generalizing a with
  | nil => simp [byteCells]
  | cons b bs ih =>
    rw [byteCells, read_cons, ih]
    by_cases h : x = a
    · subst h; simp
    · by_cases h2 : a ≤ x
      · obtain ⟨d, rfl⟩ : ∃ d, x = a + 1 + d := ⟨x - (a + 1), by omega⟩
        have e1 : a + 1 + d - a = d + 1 := by omega
        have e2 : a + 1 + d - (a + 1) = d := by omega
        have e3 : ¬ a + 1 + d = a := by omega
        rw [if_neg e3, if_pos (by omega), if_pos (by omega), e1, e2, List.getElem?_cons_succ]
      · have : ¬ a + 1 ≤ x := by omega
        simp [h, h2, this]

theorem wf_byteCells (a : Nat) (bs : List Byte) : Memory.wf (byteCells a bs) := by
  induction bs generalizing a with
  | nil => exact List.Pairwise.nil
  | cons b bs ih =>
    refine List.Pairwise.cons (fun c hc => ?_) (ih (a + 1))
    have := within_byteCells (a + 1) bs c hc
    simp only; omega

theorem within_colourCells (a : Nat) (cs : List Colour) :
    Within (colourCells a cs) a (a + 4 * cs.length) := by
  induction cs generalizing a with
  | nil => intro c hc; simp [colourCells] at hc
  | cons b cs ih =>
    intro c hc
    simp only [colourCells, List.mem_cons] at hc
    rcases hc with rfl | rfl | rfl | h
    · simp only [List.length_cons]; omega
    · simp only [List.length_cons]; omega
    · simp only [List.length_cons]; omega
    · have := ih (a + 4) c h
      simp only [List.length_cons]; omega

theorem wf_colourCells (a : Nat) (cs : List Colour) : Memory.wf (colourCells a cs) := by
  induction cs generalizing a with
  | nil => exact List.Pairwise.nil
  | cons b cs ih =>
    have hw : ∀ c ∈ colourCells (a + 4) cs, a + 4 ≤ c.1 := fun c hc => (within_colourCells (a + 4) cs c hc).1
    refine List.Pairwise.cons (fun c hc => ?_) (List.Pairwise.cons (fun c hc => ?_)
      (List.Pairwise.cons (fun c hc => ?_) (ih (a + 4))))
    · simp only [List.mem_cons] at hc
      rcases hc with rfl | rfl | h
      · simp
      · simp
      · have := hw c h; simp only; omega
    · simp only [List.mem_cons] at hc
      rcases hc with rfl | h
      · simp
      · have := hw c h; simp only; omega
    · have := hw c hc; simp only; omega

/-- Lane `j` of a colour: B, G, R. -/
def colourLane (c : Colour) (j : Nat) : Byte := c.extractLsb' (8 * j) 8

theorem read_colourCells (a : Nat) (cs : List Colour) (i j : Nat) (hj : j < 3) :
    Memory.read (colourCells a cs) (a + 4 * i + j) = cs[i]?.map (fun c => colourLane c j) := by
  induction cs generalizing a i with
  | nil => simp [colourCells]
  | cons c cs ih =>
    simp only [colourCells, read_cons]
    cases i with
    | zero =>
      rcases (by omega : j = 0 ∨ j = 1 ∨ j = 2) with rfl | rfl | rfl <;> simp [colourLane]
    | succ i =>
      have h := ih (a + 4) i
      have e : a + 4 * (i + 1) + j = a + 4 + 4 * i + j := by omega
      rw [if_neg (by omega), if_neg (by omega), if_neg (by omega), e, h]
      simp

theorem within_indexCells (a : Nat) (bs : List Byte) : Within (indexCells a bs) a (a + 4 * bs.length) := by
  induction bs generalizing a with
  | nil => intro c hc; simp [indexCells] at hc
  | cons b bs ih =>
    intro c hc
    rcases List.mem_cons.1 hc with rfl | h
    · simp
    · have := ih (a + 4) c h
      simp only [List.length_cons]; omega

theorem wf_indexCells (a : Nat) (bs : List Byte) : Memory.wf (indexCells a bs) := by
  induction bs generalizing a with
  | nil => exact List.Pairwise.nil
  | cons b bs ih =>
    refine List.Pairwise.cons (fun c hc => ?_) (ih (a + 4))
    have := within_indexCells (a + 4) bs c hc
    simp only; omega

theorem read_indexCells (a : Nat) (bs : List Byte) (i : Nat) :
    Memory.read (indexCells a bs) (a + 4 * i) = bs[i]? := by
  induction bs generalizing a i with
  | nil => simp [indexCells]
  | cons b bs ih =>
    rw [indexCells, read_cons]
    cases i with
    | zero => simp
    | succ i =>
      have e : a + 4 * (i + 1) = a + 4 + 4 * i := by omega
      rw [if_neg (by omega), e, ih]
      simp

theorem Within.mono {cells : Memory} {lo hi lo' hi' : Nat} (h : Within cells lo hi) (h1 : lo' ≤ lo) (h2 : hi ≤ hi') :
    Within cells lo' hi' := fun c hc => by have := h c hc; omega

/-! ### The stores -/

/-- Everything a byte store does to reads. -/
theorem read_storeBytes (m : Memory) (base size : Nat) (bs : List Byte) (a : Nat) :
    (m.storeBytes base size bs).read a =
      if base ≤ a ∧ a < base + (bs.take size).length then (bs.take size)[a - base]? else m.read a := by
  unfold Memory.storeBytes
  rw [read_replace m (within_byteCells _ _) (by omega), read_byteCells]
  split
  · rename_i h; rw [if_pos h.1]
  · rfl

theorem within_palette (p : List Colour) :
    Within (colourCells paletteBase (p.take 256)) paletteBase (paletteBase + 1024) :=
  (within_colourCells _ _).mono (le_refl _) (by simp only [List.length_take]; omega)

theorem within_indices (i : List Byte) :
    Within (indexCells indexBase (i.take 1024)) indexBase (indexBase + 4096) :=
  (within_indexCells _ _).mono (le_refl _) (by simp only [List.length_take]; omega)

/-- Everything a palette store does to reads. -/
theorem read_storePalette (m : Memory) (p : List Colour) (a : Nat) :
    (m.storePalette p).read a =
      if paletteBase ≤ a ∧ a < paletteBase + 1024 then (colourCells paletteBase (p.take 256)).read a
      else m.read a := read_replace m (within_palette p) (by omega) a

/-- Everything an index store does to reads. -/
theorem read_storeIndices (m : Memory) (i : List Byte) (a : Nat) :
    (m.storeIndices i).read a =
      if indexBase ≤ a ∧ a < indexBase + 4096 then (indexCells indexBase (i.take 1024)).read a
      else m.read a := read_replace m (within_indices i) (by omega) a

/-! ### The canonical form is kept -/

theorem wf_replace {m : Memory} (hm : m.wf) {lo hi : Nat} {cells : Memory} (hle : lo ≤ hi) (hcw : cells.wf)
    (hc : Within cells lo hi) : (m.replace lo hi cells).wf := by
  unfold Memory.replace
  refine List.pairwise_append.2 ⟨hm.filter _, List.pairwise_append.2 ⟨hcw, hm.filter _, ?_⟩, ?_⟩
  · intro x hx y hy
    have h1 := hc x hx
    have h2 := (List.mem_filter.1 hy).2
    simp only [decide_eq_true_eq] at h2
    omega
  · intro x hx y hy
    have h1 := (List.mem_filter.1 hx).2
    simp only [decide_eq_true_eq] at h1
    rcases List.mem_append.1 hy with h | h
    · have := hc y h; omega
    · have h2 := (List.mem_filter.1 h).2
      simp only [decide_eq_true_eq] at h2
      omega

theorem wf_storeBytes {m : Memory} (hm : m.wf) (base size : Nat) (bs : List Byte) :
    (m.storeBytes base size bs).wf :=
  wf_replace hm (by omega) (wf_byteCells _ _) (within_byteCells _ _)

theorem wf_storePalette {m : Memory} (hm : m.wf) (p : List Colour) : (m.storePalette p).wf :=
  wf_replace hm (by omega) (wf_colourCells _ _) (within_palette p)

theorem wf_storeIndices {m : Memory} (hm : m.wf) (i : List Byte) : (m.storeIndices i).wf :=
  wf_replace hm (by omega) (wf_indexCells _ _) (within_indices i)

/-- What a `replace` lists was listed before or is one of its cells. -/
theorem mem_replace {m : Memory} {lo hi : Nat} {cells : Memory} {c : Host.Cell} (h : c ∈ m.replace lo hi cells) :
    c ∈ m ∨ c ∈ cells := by
  unfold Memory.replace at h
  rcases List.mem_append.1 h with h | h
  · exact .inl (List.mem_filter.1 h).1
  · rcases List.mem_append.1 h with h | h
    · exact .inr h
    · exact .inl (List.mem_filter.1 h).1

/-! ### Colour entries -/

theorem join_colourLanes (c : Colour) : colourLane c 2 ++ (colourLane c 1 ++ colourLane c 0) = c := by
  apply BitVec.eq_of_getLsbD_eq
  intro i hi
  simp only [colourLane, BitVec.getLsbD_append, BitVec.getLsbD_extractLsb']
  by_cases h8 : i < 8
  · have h16 : i < 8 + 8 := by omega
    simp only [h16, h8, decide_true, if_true, Bool.true_and]
    congr 1; omega
  · by_cases h16 : i < 8 + 8
    · have h2 : i - 8 < 8 := by omega
      simp only [h16, h8, h2, decide_true, if_true, if_false, Bool.true_and]
      congr 1; omega
    · have h2 : i - (8 + 8) < 8 := by omega
      simp only [h16, h2, decide_true, if_false, Bool.true_and]
      congr 1; omega

theorem colour?_eq (m : Memory) (a : Nat) (c : Colour) (h0 : m.read a = some (colourLane c 0))
    (h1 : m.read (a + 1) = some (colourLane c 1)) (h2 : m.read (a + 2) = some (colourLane c 2)) :
    m.colour? a = some c := by
  unfold Memory.colour?
  rw [h0, h1, h2]
  simp only [join_colourLanes]

end Memory

/-! ### The host's writes -/

/-- Everything a pixel write does to reads. -/
theorem read_writePixel (p : Nat) (v : Word) (s : State) (a : Nat) :
    (s.writePixel p v).mem.read a =
      if pixelBase + 4 * p ≤ a ∧ a < pixelBase + 4 * p + 4 then
        Memory.read (colourCells (pixelBase + 4 * p) [colourOfWord v]) a
      else s.mem.read a :=
  Memory.read_replace s.mem (Memory.within_colourCells _ _) (by omega) a

/-- Everything a payload write does to reads. -/
theorem read_writePayload (k : Nat) (v : Word) (s : State) (a : Nat) :
    (s.writePayload k v).mem.read a =
      if payloadBase + 4 * k ≤ a ∧ a < payloadBase + 4 * k + 4 then
        Memory.read (byteCells (payloadBase + 4 * k)
          [byteOfWord v 0, byteOfWord v 1, byteOfWord v 2, byteOfWord v 3]) a
      else s.mem.read a :=
  Memory.read_replace s.mem (Memory.within_byteCells _ _) (by omega) a

theorem wf_writePixel {s : State} (h : s.mem.wf) (p : Nat) (v : Word) : (s.writePixel p v).mem.wf :=
  Memory.wf_replace h (by omega) (Memory.wf_colourCells _ _) (Memory.within_colourCells _ _)

theorem wf_writePayload {s : State} (h : s.mem.wf) (k : Nat) (v : Word) : (s.writePayload k v).mem.wf :=
  Memory.wf_replace h (by omega) (Memory.wf_byteCells _ _) (Memory.within_byteCells _ _)

/-- The memory after hardware reset is in canonical form. -/
theorem wf_reset : State.reset.mem.wf := List.Pairwise.nil

end Sys2Proof.Machine
end

