-- ==== Sys2Proof/Laws/Steps.lean ====
section
/-! SUPPORT. What each shared operation can answer, said once: acceptance of a command, a CMD write, a host
write, a turn, a step, and a run of ticks. -/

namespace Sys2Proof.Machine

/-! ### Acceptance -/

theorem issue_busy {s : State} (h : s.busy = true) (e : Option ErrorCode) (m : Option Fault) (snap : Snapshot) :
    issue e m snap s = .next (raiseError .cmdWhileBusy s) := by simp [issue, h]

theorem issue_error {s : State} (h : s.seq = .idle) (c : ErrorCode) (m : Option Fault) (snap : Snapshot) :
    issue (some c) m snap s = .next (raiseError c s) := by simp [issue, h]

theorem issue_fault {s : State} (h : s.seq = .idle) (f : Fault) (snap : Snapshot) :
    issue none (some f) snap s = .fault f := by simp [issue, h]

theorem issue_accept {s : State} (h : s.seq = .idle) (snap : Snapshot) :
    issue none none snap s = .next (accept snap s) := by simp [issue, h]

/-- Everything an acceptance can answer. -/
theorem issue_cases (e : Option ErrorCode) (m : Option Fault) (snap : Snapshot) (s : State) :
    (∃ c, issue e m snap s = .next (raiseError c s))
    ∨ (s.seq = .idle ∧ e = none ∧ ∃ f, m = some f ∧ issue e m snap s = .fault f)
    ∨ (s.seq = .idle ∧ e = none ∧ m = none ∧ issue e m snap s = .next (accept snap s)) := by
  by_cases hb : s.busy = true
  · exact .inl ⟨_, issue_busy hb e m snap⟩
  · have hi : s.seq = .idle := (busy_eq_false_iff s).1 (by simpa using hb)
    match e, m with
    | some c, m => exact .inl ⟨c, issue_error hi c m snap⟩
    | none, some f => exact .inr (.inl ⟨hi, rfl, f, rfl, issue_fault hi f snap⟩)
    | none, none => exact .inr (.inr ⟨hi, rfl, rfl, issue_accept hi snap⟩)

/-- If an acceptance answers a next state, the command was rejected or accepted. -/
theorem issue_next {e : Option ErrorCode} {m : Option Fault} {snap : Snapshot} {s t : State}
    (h : issue e m snap s = .next t) :
    (∃ c, t = raiseError c s) ∨ (s.seq = .idle ∧ e = none ∧ m = none ∧ t = accept snap s) := by
  rcases issue_cases e m snap s with ⟨c, hc⟩ | ⟨_, _, f, _, hf⟩ | ⟨hi, he, hm, ha⟩
  · rw [hc] at h; exact .inl ⟨c, by cases h; rfl⟩
  · rw [hf] at h; cases h
  · rw [ha] at h; exact .inr ⟨hi, he, hm, by cases h; rfl⟩

/-- What a command's acceptance rests on: its checks passed and its host-written inputs are there. -/
def Acceptable (s : State) : Snapshot → Prop
  | .nop => True
  | .quantize pixels => s.firstUnwrittenPixel = none ∧ pixels = s.samplePixels
  | .pack indices palCount qvalid =>
    s.qvalid = true ∧ indices = s.sampleIndices ∧ palCount = s.palCount ∧ qvalid = true
  | .buildPayload palette palCount packed packLen qvalid pvalid =>
    s.qvalid = true ∧ s.pvalid = true ∧ palette = s.samplePalette ∧ palCount = s.palCount
      ∧ packed = s.samplePacked ∧ packLen = s.packLen ∧ qvalid = true ∧ pvalid = true
  | .frame cmd payloadLen payload stuff =>
    s.payloadLen.toNat ≤ 2048 ∧ s.firstUnwrittenPayload = none ∧ cmd = s.frameCmd ∧ payloadLen = s.payloadLen
      ∧ payload = s.samplePayload ∧ stuff = s.stuff
  | .encode pixels stuff => s.firstUnwrittenPixel = none ∧ pixels = s.samplePixels ∧ stuff = s.stuff

/-- If a CMD write answers a next state: the command was rejected, accepted with its checks passed, or it was a
SOFT_RESET of an idle block. -/
theorem exec_next {i : Instr} {s t : State} (h : exec i s = .next t) :
    (∃ c, t = raiseError c s)
    ∨ (s.seq = .idle ∧ ∃ snap, Acceptable s snap ∧ t = accept snap s)
    ∨ (s.seq = .idle ∧ i = .softReset ∧ t = resetCsrs s) := by
  cases i with
  | nop =>
    have h : execNop s = .next t := h
    unfold execNop at h
    rcases issue_next h with h | ⟨hi, _, _, ht⟩
    · exact .inl h
    · exact .inr (.inl ⟨hi, .nop, trivial, ht⟩)
  | quantize =>
    have h : execQuantize s = .next t := h
    unfold execQuantize at h
    rcases issue_next h with h | ⟨hi, _, hm, ht⟩
    · exact .inl h
    · exact .inr (.inl ⟨hi, .quantize s.samplePixels, ⟨by simpa using hm, rfl⟩, ht⟩)
  | pack =>
    have h : execPack s = .next t := h
    unfold execPack at h
    rcases issue_next h with h | ⟨hi, he, _, ht⟩
    · exact .inl h
    · have hq : s.qvalid = true := by
        by_contra hq; simp [packError, hq] at he
      exact .inr (.inl ⟨hi, .pack s.sampleIndices s.palCount s.qvalid, ⟨hq, rfl, rfl, hq⟩, ht⟩)
  | buildPayload =>
    have h : execBuildPayload s = .next t := h
    unfold execBuildPayload at h
    rcases issue_next h with h | ⟨hi, he, _, ht⟩
    · exact .inl h
    · have hq : s.qvalid = true := by
        by_contra hq; simp [buildPayloadError, hq] at he
      have hp : s.pvalid = true := by
        by_contra hp; simp [buildPayloadError, hq, hp] at he
      exact .inr (.inl ⟨hi, .buildPayload s.samplePalette s.palCount s.samplePacked s.packLen s.qvalid s.pvalid, ⟨hq, hp, rfl, rfl, rfl, rfl, hq, hp⟩, ht⟩)
  | frame =>
    have h : execFrame s = .next t := h
    unfold execFrame at h
    rcases issue_next h with h | ⟨hi, he, hm, ht⟩
    · exact .inl h
    · have hl : s.payloadLen.toNat ≤ 2048 := by
        by_contra hl; simp [frameError, not_le.1 hl] at he
      exact .inr (.inl ⟨hi, .frame s.frameCmd s.payloadLen s.samplePayload s.stuff, ⟨hl, by simpa using hm, rfl, rfl, rfl, rfl⟩, ht⟩)
  | encode =>
    have h : execEncode s = .next t := h
    unfold execEncode at h
    rcases issue_next h with h | ⟨hi, _, hm, ht⟩
    · exact .inl h
    · exact .inr (.inl ⟨hi, .encode s.samplePixels s.stuff, ⟨by simpa using hm, rfl, rfl⟩, ht⟩)
  | softReset =>
    by_cases hb : s.busy = true
    · simp only [exec, execSoftReset, hb, if_true] at h
      exact .inl ⟨.cmdWhileBusy, by cases h; rfl⟩
    · simp only [exec, execSoftReset, hb, if_false, Bool.false_eq_true] at h
      exact .inr (.inr ⟨(busy_eq_false_iff s).1 (by simpa using hb), rfl, by cases h; rfl⟩)

/-! ### Host writes -/

/-- Everything a host write to a target other than CMD can do. -/
theorem writeTarget_cases (t : Target) (v : Word) (s : State) :
    (writeTarget t v s = s)
    ∨ (writeTarget t v s = s.writeStatus v)
    ∨ (s.busy = true ∧ writeTarget t v s = raiseError .writeWhileBusy s)
    ∨ (s.seq = .idle ∧ ((t = .csr .ctrl ∧ writeTarget t v s = s.writeCtrl v)
        ∨ (t = .csr .frameCmd ∧ writeTarget t v s = s.writeFrameCmd v)
        ∨ (t = .csr .payloadLen ∧ writeTarget t v s = s.writePayloadLen v)
        ∨ (∃ p, t = .pixel p ∧ writeTarget t v s = s.writePixel p v)
        ∨ (∃ k, t = .payload k ∧ writeTarget t v s = s.writePayload k v))) := by
  by_cases hb : s.busy = true
  · unfold writeTarget unlessBusy
    split <;> simp [hb]
  · have hi : s.seq = .idle := (busy_eq_false_iff s).1 (by simpa using hb)
    unfold writeTarget unlessBusy
    split <;> simp [hi]

/-- If a host write answers a next state. -/
theorem hostWrite_next {a : Addr} {v : Word} {s t : State} (h : hostWrite a v s = .next t) :
    (targetOf a = .csr .cmd ∧ ((∃ i, decodeWord v = .ok i ∧ exec i s = .next t) ∨ ∃ c, t = raiseError c s))
    ∨ (targetOf a ≠ .csr .cmd ∧ t = writeTarget (targetOf a) v s) := by
  unfold hostWrite at h
  by_cases hc : targetOf a = .csr .cmd
  · rw [if_pos hc] at h
    unfold presentCommand at h
    cases hd : decodeWord v with
    | ok i => rw [hd] at h; exact .inl ⟨hc, .inl ⟨i, rfl, h⟩⟩
    | error e =>
      rw [hd] at h
      refine .inl ⟨hc, .inr ?_⟩
      simp only [rejectWord] at h
      split at h
      · exact ⟨.cmdWhileBusy, by cases h; rfl⟩
      · exact ⟨.illegalCmd, by cases h; rfl⟩
  · rw [if_neg hc] at h
    exact .inr ⟨hc, by cases h; rfl⟩

/-! ### Ticks -/

theorem tick_idle {s : State} (h : s.seq = .idle) : tick s = s := by simp [tick, h]

theorem tick_last {s : State} {snap : Snapshot} {k : Nat} (h : s.seq = .run snap k) (hk : k ≤ 1) :
    tick s = complete snap s := by simp [tick, h, hk]

theorem tick_more {s : State} {snap : Snapshot} {k : Nat} (h : s.seq = .run snap k) (hk : 2 ≤ k) :
    tick s = { s with seq := .run snap (k - 1) } := by
  have : ¬ k ≤ 1 := by omega
  simp [tick, h, this]

/-! ### One step -/

/-- If a step answers a next state: what the next turn was and what it did. -/
theorem step_next {s t : State} (h : step s = .next t) :
    (s.turns = [] ∧ t = tick s)
    ∨ ∃ x rest, s.turns = x :: rest ∧
      ((x = .tick ∧ t = tick { s with turns := rest })
      ∨ (x = .reset ∧ t = hardwareReset { s with turns := rest })
      ∨ (∃ a, x = .read a ∧ t = hostRead a { s with turns := rest })
      ∨ (∃ a v, x = .write a v ∧ hostWrite a v { s with turns := rest } = .next t)) := by
  unfold step at h
  cases ht : s.turns with
  | nil => rw [ht] at h; exact .inl ⟨rfl, by cases h; rfl⟩
  | cons x rest =>
    rw [ht] at h
    refine .inr ⟨x, rest, rfl, ?_⟩
    cases x with
    | tick => exact .inl ⟨rfl, by cases h; rfl⟩
    | reset => exact .inr (.inl ⟨rfl, by cases h; rfl⟩)
    | read a => exact .inr (.inr (.inl ⟨a, rfl, by cases h; rfl⟩))
    | write a v => exact .inr (.inr (.inr ⟨a, v, rfl, h⟩))

theorem step_of_no_turns {s : State} (h : s.turns = []) : step s = .next (tick s) := by
  unfold step; rw [h]

/-- Every change a step can make to the block, in one list: an induction over steps proves its case for each. -/
inductive Change (s : State) : State → Prop where
  | same : Change s s
  | tick : Change s (Machine.tick s)
  | read (a : Addr) : Change s (hostRead a s)
  | error (c : ErrorCode) : Change s (raiseError c s)
  | status (v : Word) : Change s (s.writeStatus v)
  | ctrl (v : Word) (h : s.seq = .idle) : Change s (s.writeCtrl v)
  | frameCmd (v : Word) (h : s.seq = .idle) : Change s (s.writeFrameCmd v)
  | payloadLen (v : Word) (h : s.seq = .idle) : Change s (s.writePayloadLen v)
  | pixel (a : Addr) (p : Nat) (v : Word) (h : s.seq = .idle) (ha : targetOf a = .pixel p) :
      Change s (s.writePixel p v)
  | payload (a : Addr) (k : Nat) (v : Word) (h : s.seq = .idle) (ha : targetOf a = .payload k) :
      Change s (s.writePayload k v)
  | accept (snap : Snapshot) (h : s.seq = .idle) (ha : Acceptable s snap) : Change s (Machine.accept snap s)
  | softReset (h : s.seq = .idle) : Change s (resetCsrs s)
  | hardReset : Change s (hardwareReset s)

/-- If a step answers a next state, it is one of those changes, at the state without the turn taken. -/
theorem step_change {s t : State} (h : step s = .next t) : ∃ rest, Change { s with turns := rest } t := by
  rcases step_next h with ⟨ht, rfl⟩ | ⟨x, rest, ht, h⟩
  · exact ⟨[], by rw [← ht]; exact .tick⟩
  · refine ⟨rest, ?_⟩
    rcases h with ⟨_, rfl⟩ | ⟨_, rfl⟩ | ⟨a, _, rfl⟩ | ⟨a, v, _, h⟩
    · exact .tick
    · exact .hardReset
    · exact .read a
    · rcases hostWrite_next h with ⟨_, ⟨i, _, h⟩ | ⟨c, rfl⟩⟩ | ⟨_, rfl⟩
      · rcases exec_next h with ⟨c, rfl⟩ | ⟨hi, snap, ha, rfl⟩ | ⟨hi, _, rfl⟩
        · exact .error c
        · exact .accept snap hi ha
        · exact .softReset hi
      · exact .error c
      · rcases writeTarget_cases (targetOf a) v { s with turns := rest } with
          e | e | ⟨_, e⟩ | ⟨hi, ⟨_, e⟩ | ⟨_, e⟩ | ⟨_, e⟩ | ⟨p, hp, e⟩ | ⟨k, hk, e⟩⟩
        · rw [e]; exact .same
        · rw [e]; exact .status v
        · rw [e]; exact .error _
        · rw [e]; exact .ctrl v hi
        · rw [e]; exact .frameCmd v hi
        · rw [e]; exact .payloadLen v hi
        · rw [e]; exact .pixel a p v hi hp
        · rw [e]; exact .payload a k v hi hk

/-! ### Runs -/

theorem run_zero (s : State) : Sys2Proof.core.run 0 s = .next s := by simp only [Host.Core.run]

theorem run_succ {s s' : State} (j : Nat) (h : step s = .next s') :
    Sys2Proof.core.run (j + 1) s = Sys2Proof.core.run j s' := by
  have h' : Sys2Proof.core.step s = .next s' := h
  simp only [Host.Core.run, h']

/-- A completion does not look at SEQ. -/
theorem complete_of_seq (snap : Snapshot) (s : State) (q : Seq) :
    complete snap { s with seq := q } = complete snap s := by cases snap <;> rfl

/-- With no turn waiting, a command with `k ≥ 1` ticks left completes after exactly `k` steps. -/
theorem ticksTo_complete (snap : Snapshot) (k : Nat) (s : State) (hs : s.seq = .run snap k) (ht : s.turns = [])
    (hk : 1 ≤ k) : TicksTo k s (complete snap s) := by
  induction k generalizing s with
  | zero => omega
  | succ k ih =>
    have h0 : ∃ v : State, Sys2Proof.core.run 0 s = .next v ∧ v.busy = true :=
      ⟨s, run_zero s, (busy_eq_true_iff s).2 ⟨snap, _, hs⟩⟩
    by_cases h1 : k = 0
    · subst h1
      have hstep : step s = .next (complete snap s) := by rw [step_of_no_turns ht, tick_last hs (by omega)]
      refine ⟨fun j hj => ?_, ?_⟩
      · obtain rfl : j = 0 := by omega
        exact h0
      · rw [run_succ 0 hstep, run_zero]
    · have hstep : step s = .next { s with seq := .run snap k } := by
        rw [step_of_no_turns ht, tick_more hs (by omega)]; rfl
      obtain ⟨h2, h3⟩ := ih { s with seq := .run snap k } rfl ht (by omega)
      refine ⟨fun j hj => ?_, ?_⟩
      · cases j with
        | zero => exact h0
        | succ j => rw [run_succ j hstep]; exact h2 j (by omega)
      · rw [run_succ k hstep, h3, complete_of_seq]

end Sys2Proof.Machine
end

