-- ==== Sys2Proof/Laws/Samples.lean ====
section
/-! SUPPORT. Sampling of a command's operands: what is sampled where the memory holds values, and that equal
memories give equal samples. -/

namespace Sys2Proof.Machine

theorem latency_pos (snap : Snapshot) (d : Nat) : 1 ≤ latency snap d := by unfold latency; omega

/-! ### Single entries -/

theorem byteAt_of_read {s : State} {a : Nat} {b : Byte} (h : s.mem.read a = some b) : s.byteAt a = b := by
  simp [State.byteAt, h]

theorem read_of_byteWritten {m : Memory} {a : Nat} (h : m.byteWritten a = true) : ∃ b, m.read a = some b :=
  Option.isSome_iff_exists.1 h

theorem byteWritten_of_read {m : Memory} {a : Nat} {b : Byte} (h : m.read a = some b) : m.byteWritten a = true := by
  simp [Memory.byteWritten, h]

/-- A byte that is written is sampled alike wherever the memory reads alike. -/
theorem byteAt_congr {s t : State} {a : Nat} (h : t.mem.read a = s.mem.read a) (hw : s.mem.byteWritten a = true) :
    t.byteAt a = s.byteAt a := by
  obtain ⟨b, hb⟩ := read_of_byteWritten hw
  rw [byteAt_of_read hb, byteAt_of_read (h.trans hb)]

theorem colourWritten_iff (m : Memory) (a : Nat) :
    m.colourWritten a = true ↔
      m.byteWritten a = true ∧ m.byteWritten (a + 1) = true ∧ m.byteWritten (a + 2) = true := by
  simp [Memory.colourWritten, and_assoc]

theorem colourWritten_congr {m n : Memory} {a : Nat} (h : ∀ j < 3, n.read (a + j) = m.read (a + j)) :
    n.colourWritten a = m.colourWritten a := by
  simp only [Memory.colourWritten, Memory.byteWritten]
  rw [show n.read a = m.read a from h 0 (by omega), h 1 (by omega), h 2 (by omega)]

theorem colour?_congr {m n : Memory} {a : Nat} (h : ∀ j < 3, n.read (a + j) = m.read (a + j)) :
    n.colour? a = m.colour? a := by
  simp only [Memory.colour?]
  rw [show n.read a = m.read a from h 0 (by omega), h 1 (by omega), h 2 (by omega)]

/-- The colour entry that is held is the one that is sampled. -/
theorem colourAt_of_colour? {s : State} {a : Nat} {c : Colour} (h : s.mem.colour? a = some c) : s.colourAt a = c := by
  unfold Memory.colour? at h
  split at h
  · rename_i b g r h0 h1 h2
    rw [State.colourAt, byteAt_of_read h0, byteAt_of_read h1, byteAt_of_read h2]
    cases h; rfl
  · cases h

theorem colour?_of_colourWritten {s : State} {a : Nat} (h : s.mem.colourWritten a = true) :
    s.mem.colour? a = some (s.colourAt a) := by
  obtain ⟨h0, h1, h2⟩ := (colourWritten_iff _ _).1 h
  obtain ⟨b, hb⟩ := read_of_byteWritten h0
  obtain ⟨g, hg⟩ := read_of_byteWritten h1
  obtain ⟨r, hr⟩ := read_of_byteWritten h2
  have e : s.mem.colour? a = some (r ++ (g ++ b)) := by simp only [Memory.colour?, hb, hg, hr]
  rw [e, colourAt_of_colour? e]

theorem colourWritten_of_colour? {m : Memory} {a : Nat} {c : Colour} (h : m.colour? a = some c) :
    m.colourWritten a = true := by
  unfold Memory.colour? at h
  split at h
  · rename_i b g r h0 h1 h2
    exact (colourWritten_iff _ _).2 ⟨byteWritten_of_read h0, byteWritten_of_read h1, byteWritten_of_read h2⟩
  · cases h

theorem colourAt_congr {s t : State} {a : Nat} (h : ∀ j < 3, t.mem.read (a + j) = s.mem.read (a + j))
    (hw : s.mem.colourWritten a = true) : t.colourAt a = s.colourAt a :=
  colourAt_of_colour? (by rw [colour?_congr h]; exact colour?_of_colourWritten hw)

/-! ### Whole samples -/

@[simp] theorem length_samplePixels (s : State) : s.samplePixels.length = 1024 := by simp [State.samplePixels]
@[simp] theorem length_sampleIndices (s : State) : s.sampleIndices.length = 1024 := by simp [State.sampleIndices]
@[simp] theorem length_samplePalette (s : State) : s.samplePalette.length = s.palCount.toNat := by
  simp [State.samplePalette]
@[simp] theorem length_samplePacked (s : State) : s.samplePacked.length = s.packLen.toNat := by
  simp [State.samplePacked]
@[simp] theorem length_samplePayload (s : State) : s.samplePayload.length = s.payloadLen.toNat := by
  simp [State.samplePayload]

theorem samplePixels_ne_nil (s : State) : s.samplePixels ≠ [] := by
  intro h; have := length_samplePixels s; rw [h] at this; simp at this

theorem firstUnwrittenPixel_eq_none (s : State) : s.firstUnwrittenPixel = none ↔ s.PixelsWritten := by
  simp [State.firstUnwrittenPixel, State.PixelsWritten]

theorem firstUnwrittenPayload_eq_none (s : State) : s.firstUnwrittenPayload = none ↔ s.PayloadWritten := by
  simp [State.firstUnwrittenPayload, State.PayloadWritten]

/-- The pixel the fault names is the first of 0 .. 1023 that nothing wrote. -/
theorem firstUnwrittenPixel_eq_find (s : State) : s.firstUnwrittenPixel =
    (List.range 1024).find? (fun p => !s.mem.colourWritten (pixelBase + 4 * p)) := by
  rw [State.firstUnwrittenPixel, List.range_eq_range']

/-- The byte the fault names is the first of 0 .. PAYLOAD_LEN-1 that nothing wrote. -/
theorem firstUnwrittenPayload_eq_find (s : State) : s.firstUnwrittenPayload =
    (List.range s.payloadLen.toNat).find? (fun b => !s.mem.byteWritten (payloadBase + b)) := by
  rw [State.firstUnwrittenPayload, List.range_eq_range']

/-- A change that leaves PIXEL_MEM's bytes alone leaves the written pixels and what they sample to. -/
theorem pixels_congr {s t : State} (hw : s.PixelsWritten)
    (h : ∀ a, pixelBase ≤ a → a < pixelBase + 4096 → t.mem.read a = s.mem.read a) :
    t.PixelsWritten ∧ t.samplePixels = s.samplePixels := by
  have h3 : ∀ p < Config.nPix, ∀ j < 3,
      t.mem.read (pixelBase + 4 * p + j) = s.mem.read (pixelBase + 4 * p + j) := fun p hp j hj =>
    h _ (by omega) (by simp only [Config.nPix] at hp; omega)
  refine ⟨fun p hp => by rw [colourWritten_congr (h3 p hp)]; exact hw p hp, ?_⟩
  refine List.map_congr_left fun p hp => ?_
  have hp := List.mem_range.1 hp
  exact colourAt_congr (h3 p hp) (hw p hp)

/-- A sampled list is the one the memory holds. -/
theorem map_range_eq_of_get {α : Type} (l : List α) (n : Nat) (f : Nat → α) (hl : l.length = n)
    (h : ∀ i < n, l[i]? = some (f i)) : (List.range n).map f = l := by
  apply List.ext_getElem?
  intro i
  by_cases hi : i < n
  · rw [h i hi]; simp [hi]
  · rw [List.getElem?_eq_none (by simp; omega), List.getElem?_eq_none (by omega)]

theorem samplePalette_of_holds {s : State} {p : List Colour} (hn : s.palCount.toNat = p.length)
    (h : s.mem.HoldsColours paletteBase p) : s.samplePalette = p := by
  refine map_range_eq_of_get p _ _ hn.symm fun i hi => ?_
  rw [hn] at hi
  have h1 := h i hi
  rw [List.getElem?_eq_getElem hi] at h1 ⊢
  rw [colourAt_of_colour? h1]

theorem sampleIndices_of_holds {s : State} {b : List Byte} (hn : b.length = 1024)
    (h : s.mem.HoldsEntries indexBase b) : s.sampleIndices = b := by
  refine map_range_eq_of_get b _ _ hn fun i hi => ?_
  have hi' : i < b.length := by rw [hn]; exact hi
  have h1 := h i hi'
  rw [List.getElem?_eq_getElem hi'] at h1 ⊢
  rw [byteAt_of_read h1]

theorem samplePacked_of_holds {s : State} {b : List Byte} (hn : s.packLen.toNat = b.length)
    (h : s.mem.HoldsBytes packBase b) : s.samplePacked = b := by
  refine map_range_eq_of_get b _ _ hn.symm fun i hi => ?_
  rw [hn] at hi
  have h1 := h i hi
  rw [List.getElem?_eq_getElem hi] at h1 ⊢
  rw [byteAt_of_read h1]

theorem samplePayload_of_holds {s : State} {y : List Byte} (hn : s.payloadLen.toNat = y.length)
    (h : s.mem.HoldsBytes payloadBase y) : s.samplePayload = y ∧ s.PayloadWritten := by
  constructor
  · refine map_range_eq_of_get y _ _ hn.symm fun i hi => ?_
    rw [hn] at hi
    have h1 := h i hi
    rw [List.getElem?_eq_getElem hi] at h1 ⊢
    rw [byteAt_of_read h1]
  · intro b hb
    rw [hn] at hb
    have h1 := h b hb
    rw [List.getElem?_eq_getElem hb] at h1
    exact byteWritten_of_read h1

/-! ### What the stores leave in memory -/

theorem holds_storeBytes (m : Memory) (base size : Nat) (bs : List Byte) (h : bs.length ≤ size) :
    (m.storeBytes base size bs).HoldsBytes base bs := by
  intro b hb
  rw [Memory.read_storeBytes, List.take_of_length_le h, if_pos ⟨by omega, by omega⟩,
    show base + b - base = b by omega]

theorem same_storeBytes (m : Memory) (base size : Nat) (bs : List Byte) (h : bs.length ≤ size) :
    m.SameOutside (m.storeBytes base size bs) base (base + bs.length) := by
  intro a ha
  rw [Memory.read_storeBytes, List.take_of_length_le h, if_neg ha]

theorem holds_storeIndices (m : Memory) (b : List Byte) (h : b.length ≤ 1024) :
    (m.storeIndices b).HoldsEntries indexBase b := by
  intro p hp
  rw [Memory.read_storeIndices, if_pos (by simp only [indexBase]; omega), List.take_of_length_le h,
    Memory.read_indexCells]

theorem holds_storePalette (m : Memory) (p : List Colour) (h : p.length ≤ 256) :
    (m.storePalette p).HoldsColours paletteBase p := by
  intro i hi
  have e : ∀ j < 3, (m.storePalette p).read (paletteBase + 4 * i + j) = some (Memory.colourLane p[i] j) := by
    intro j hj
    rw [Memory.read_storePalette, if_pos (by simp only [paletteBase]; omega), List.take_of_length_le h,
      Memory.read_colourCells _ _ _ _ hj, List.getElem?_eq_getElem hi]
    rfl
  rw [List.getElem?_eq_getElem hi]
  exact Memory.colour?_eq _ _ _ (e 0 (by omega)) (e 1 (by omega)) (e 2 (by omega))

theorem none_storePalette (m : Memory) (p : List Colour) {i : Nat} (h1 : p.length ≤ i) (h2 : i < 256) :
    (m.storePalette p).colour? (paletteBase + 4 * i) = none := by
  have e : (m.storePalette p).read (paletteBase + 4 * i) = none := by
    rw [Memory.read_storePalette, if_pos (by simp only [paletteBase]; omega)]
    have := Memory.read_colourCells paletteBase (p.take 256) i 0 (by omega)
    rw [Nat.add_zero] at this
    rw [this, List.getElem?_eq_none (by simp only [List.length_take]; omega)]
    rfl
  simp only [Memory.colour?, e]

theorem same_storePalette (m : Memory) (p : List Colour) :
    m.SameOutside (m.storePalette p) paletteBase (paletteBase + 1024) := by
  intro a ha; rw [Memory.read_storePalette, if_neg ha]

theorem same_storeIndices (m : Memory) (b : List Byte) :
    m.SameOutside (m.storeIndices b) indexBase (indexBase + 4096) := by
  intro a ha; rw [Memory.read_storeIndices, if_neg ha]

/-- A byte store that may be longer than its memory still stays within it. -/
theorem same_storeBytes_size (m : Memory) (base size : Nat) (bs : List Byte) :
    m.SameOutside (m.storeBytes base size bs) base (base + size) := by
  intro a ha
  rw [Memory.read_storeBytes, if_neg]
  simp only [List.length_take]; omega

end Sys2Proof.Machine
end

