-- ==== Sys2Proof/Laws/Completions.lean ====
section
/-! SUPPORT. What a completion writes, as one record update for each command, so that no proof unfolds a chain of
updates. -/

namespace Sys2Proof.Machine

theorem complete_nop (s : State) : complete .nop s = { s with seq := .idle, done := true } := rfl

theorem complete_quantize (pixels : List Colour) (s : State) :
    complete (.quantize pixels) s = { s with
      seq := .idle, done := true, qvalid := true, pvalid := false, yvalid := false
      reduced := (quantizeGrid pixels).reduced
      palCount := BitVec.ofNat 9 (quantizeGrid pixels).palette.length
      mem := (s.mem.storePalette (quantizeGrid pixels).palette).storeIndices
        (indexBytes (quantizeGrid pixels).indices) } := rfl

theorem complete_pack (indices : List Byte) (palCount : BitVec 9) (qvalid : Bool) (s : State) :
    complete (.pack indices palCount qvalid) s = { s with
      seq := .idle, done := true, pvalid := true, yvalid := false
      bitWidth := BitVec.ofNat 4 (bitWidthOf palCount.toNat)
      packLen := BitVec.ofNat 11 (packBytes indices palCount).length
      mem := s.mem.storeBytes packBase packSize (packBytes indices palCount) } := rfl

theorem complete_buildPayload (palette : List Colour) (palCount : BitVec 9) (packed : List Byte)
    (packLen : BitVec 11) (qvalid pvalid : Bool) (s : State) :
    complete (.buildPayload palette palCount packed packLen qvalid pvalid) s = { s with
      seq := .idle, done := true, yvalid := true
      payloadLen := BitVec.ofNat 16 (imagePayload palette packed).length
      mem := s.mem.storeBytes payloadBase payloadSize (imagePayload palette packed) } := rfl

theorem complete_frame (cmd : Byte) (payloadLen : BitVec 16) (payload : List Byte) (stuff : Bool) (s : State) :
    complete (.frame cmd payloadLen payload stuff) s = { s with
      seq := .idle, done := true, fvalid := true
      outLen := BitVec.ofNat 14 (frameBytes cmd payload stuff).length
      innerLen := BitVec.ofNat 16 (innerLength payload)
      checksum := BitVec.ofNat 16 (frameChecksum cmd payload)
      mem := s.mem.storeBytes outBase outSize (frameBytes cmd payload stuff) } := rfl

/-- The memory an ENCODE of a quantization leaves. -/
def encodedMemory (m : Memory) (q : Quantized) (stuff : Bool) : Memory :=
  ((((m.storePalette q.palette).storeIndices (indexBytes q.indices)).storeBytes packBase packSize
    (encodePacked q)).storeBytes payloadBase payloadSize (encodePayload q)).storeBytes outBase outSize
    (frameBytes Config.imageCmd (encodePayload q) stuff)

theorem complete_encode (pixels : List Colour) (stuff : Bool) (s : State) (q : Quantized)
    (hq : q = quantizeGrid pixels) :
    complete (.encode pixels stuff) s = { s with
      seq := .idle, done := true, qvalid := true, pvalid := true, yvalid := true, fvalid := true
      reduced := q.reduced
      palCount := BitVec.ofNat 9 q.palette.length
      bitWidth := BitVec.ofNat 4 (bitWidthOf q.palette.length)
      packLen := BitVec.ofNat 11 (encodePacked q).length
      payloadLen := BitVec.ofNat 16 (encodePayload q).length
      innerLen := BitVec.ofNat 16 (innerLength (encodePayload q))
      checksum := BitVec.ofNat 16 (frameChecksum Config.imageCmd (encodePayload q))
      outLen := BitVec.ofNat 14 (frameBytes Config.imageCmd (encodePayload q) stuff).length
      mem := encodedMemory s.mem q stuff } := by subst hq; rfl

/-- No completion changes an input that only the host writes, or anything of the host's own. -/
theorem complete_keeps (snap : Snapshot) (s : State) :
    (complete snap s).stuff = s.stuff ∧ (complete snap s).irqEn = s.irqEn ∧ (complete snap s).err = s.err
      ∧ (complete snap s).errCode = s.errCode ∧ (complete snap s).frameCmd = s.frameCmd
      ∧ (complete snap s).rdata = s.rdata ∧ (complete snap s).turns = s.turns
      ∧ (complete snap s).draws = s.draws ∧ (complete snap s).seq = .idle ∧ (complete snap s).done = true := by
  cases snap <;> exact ⟨rfl, rfl, rfl, rfl, rfl, rfl, rfl, rfl, rfl, rfl⟩

end Sys2Proof.Machine
end

