-- ==== Sys2Proof/Laws/PerInstr.lean ====
section
/-! SUPPORT. One lemma per command about its encoding (30_encoding.md R90, R91). -/

/-- A command is well-formed, and its word splits into RSVD = 0 and an assigned OP, its own. -/
def Sys2Proof.Laws.EncodingShape.Statement (i : Sys2Proof.Instr) : Prop :=
  i.wf = true ∧ (Sys2Proof.splitWord (Sys2Proof.encode i)).wf = true
    ∧ (Sys2Proof.splitWord (Sys2Proof.encode i)).rsvd = 0
    ∧ (Sys2Proof.splitWord (Sys2Proof.encode i)).op = i.op

theorem Sys2Proof.Laws.EncodingShape.nop : Sys2Proof.Laws.EncodingShape.Statement .nop := by
  unfold Sys2Proof.Laws.EncodingShape.Statement; decide

theorem Sys2Proof.Laws.EncodingShape.quantize : Sys2Proof.Laws.EncodingShape.Statement .quantize := by
  unfold Sys2Proof.Laws.EncodingShape.Statement; decide

theorem Sys2Proof.Laws.EncodingShape.pack : Sys2Proof.Laws.EncodingShape.Statement .pack := by
  unfold Sys2Proof.Laws.EncodingShape.Statement; decide

theorem Sys2Proof.Laws.EncodingShape.buildPayload : Sys2Proof.Laws.EncodingShape.Statement .buildPayload := by
  unfold Sys2Proof.Laws.EncodingShape.Statement; decide

theorem Sys2Proof.Laws.EncodingShape.frame : Sys2Proof.Laws.EncodingShape.Statement .frame := by
  unfold Sys2Proof.Laws.EncodingShape.Statement; decide

theorem Sys2Proof.Laws.EncodingShape.encode : Sys2Proof.Laws.EncodingShape.Statement .encode := by
  unfold Sys2Proof.Laws.EncodingShape.Statement; decide

theorem Sys2Proof.Laws.EncodingShape.softReset : Sys2Proof.Laws.EncodingShape.Statement .softReset := by
  unfold Sys2Proof.Laws.EncodingShape.Statement; decide
end

