-- ==== Sys2Proof/Laws/Targets.lean ====
section
/-! SUPPORT. The address map read backwards and forwards, where memory entries keep bytes, and the byte lanes of a
word. -/

namespace Sys2Proof.Machine

/-! ### What the words of the window name -/

theorem targetOf_of_word {a : Addr} {w : Nat} (h : a.toNat / 4 = w) : targetOf a = targetOfWord w :=
  congrArg targetOfWord h

/-- The word number of word `n` of a region whose first word is `r`. -/
theorem addr_word {r n : Nat} (h : r + n < 0x4000) : (BitVec.ofNat 16 (4 * r + 4 * n)).toNat / 4 = r + n := by
  rw [BitVec.toNat_ofNat, Nat.mod_eq_of_lt (by omega)]; omega

theorem targetOfWord_pixel (p : Nat) (h : p < 1024) : targetOfWord (0x400 + p) = .pixel p := by
  unfold targetOfWord
  split_ifs <;> first | omega | rw [Nat.add_sub_cancel_left]

theorem targetOfWord_payload (k : Nat) (h : k < 512) : targetOfWord (0x800 + k) = .payload k := by
  unfold targetOfWord
  split_ifs <;> first | omega | rw [Nat.add_sub_cancel_left]

theorem targetOfWord_palette (i : Nat) (h : i < 256) : targetOfWord (0xC00 + i) = .palette i := by
  unfold targetOfWord
  split_ifs <;> first | omega | rw [Nat.add_sub_cancel_left]

theorem targetOfWord_pack (k : Nat) (h : k < 256) : targetOfWord (0xD00 + k) = .pack k := by
  unfold targetOfWord
  split_ifs <;> first | omega | rw [Nat.add_sub_cancel_left]

theorem targetOfWord_index (p : Nat) (h : p < 1024) : targetOfWord (0x1000 + p) = .index p := by
  unfold targetOfWord
  split_ifs <;> first | omega | rw [Nat.add_sub_cancel_left]

theorem targetOfWord_out (k : Nat) (h : k < 2048) : targetOfWord (0x2000 + k) = .out k := by
  unfold targetOfWord
  split_ifs <;> first | omega | rw [Nat.add_sub_cancel_left]

theorem targetOf_pixel (p : Nat) (h : p < 1024) : targetOf (BitVec.ofNat 16 (0x1000 + 4 * p)) = .pixel p :=
  (targetOf_of_word (addr_word (r := 0x400) (by omega))).trans (targetOfWord_pixel p h)

theorem targetOf_payload (k : Nat) (h : k < 512) : targetOf (BitVec.ofNat 16 (0x2000 + 4 * k)) = .payload k :=
  (targetOf_of_word (addr_word (r := 0x800) (by omega))).trans (targetOfWord_payload k h)

theorem targetOf_palette (i : Nat) (h : i < 256) : targetOf (BitVec.ofNat 16 (0x3000 + 4 * i)) = .palette i :=
  (targetOf_of_word (addr_word (r := 0xC00) (by omega))).trans (targetOfWord_palette i h)

theorem targetOf_pack (k : Nat) (h : k < 256) : targetOf (BitVec.ofNat 16 (0x3400 + 4 * k)) = .pack k :=
  (targetOf_of_word (addr_word (r := 0xD00) (by omega))).trans (targetOfWord_pack k h)

theorem targetOf_index (p : Nat) (h : p < 1024) : targetOf (BitVec.ofNat 16 (0x4000 + 4 * p)) = .index p :=
  (targetOf_of_word (addr_word (r := 0x1000) (by omega))).trans (targetOfWord_index p h)

theorem targetOf_out (k : Nat) (h : k < 2048) : targetOf (BitVec.ofNat 16 (0x8000 + 4 * k)) = .out k :=
  (targetOf_of_word (addr_word (r := 0x2000) (by omega))).trans (targetOfWord_out k h)

theorem csrOfWord_none {w : Nat} (h : 13 ≤ w) : csrOfWord w = none := by
  obtain ⟨d, rfl⟩ : ∃ d, w = d + 13 := ⟨w - 13, by omega⟩
  rfl

/-- A pixel or payload target names its own word. -/
theorem targetOfWord_memory {w p : Nat} (h : targetOfWord w = .pixel p ∨ targetOfWord w = .payload p) :
    (targetOfWord w = .pixel p ∧ w = 0x400 + p ∧ p < 1024)
    ∨ (targetOfWord w = .payload p ∧ w = 0x800 + p ∧ p < 512) := by
  by_cases h1 : w < 0x400
  · exfalso
    unfold targetOfWord at h
    rw [if_pos h1] at h
    split at h <;> simp at h
  · by_cases h2 : w < 0x800
    · have e : targetOfWord w = .pixel (w - 0x400) := by unfold targetOfWord; rw [if_neg h1, if_pos h2]
      rcases h with h | h
      · have := Target.pixel.inj (e.symm.trans h)
        exact .inl ⟨h, by omega, by omega⟩
      · exact Target.noConfusion (e.symm.trans h)
    · by_cases h3 : w < 0xA00
      · have e : targetOfWord w = .payload (w - 0x800) := by
          unfold targetOfWord; rw [if_neg h1, if_neg h2, if_pos h3]
        rcases h with h | h
        · exact Target.noConfusion (e.symm.trans h)
        · have := Target.payload.inj (e.symm.trans h)
          exact .inr ⟨h, by omega, by omega⟩
      · exfalso
        unfold targetOfWord at h
        rw [if_neg h1, if_neg h2, if_neg h3] at h
        split_ifs at h <;> simp at h

theorem pixel_lt {a : Addr} {p : Nat} (h : targetOf a = .pixel p) : p < 1024 := by
  rcases targetOfWord_memory (.inl h) with ⟨_, _, h2⟩ | ⟨h2, _⟩
  · exact h2
  · exact Target.noConfusion (h2.symm.trans h)

theorem payload_lt {a : Addr} {k : Nat} (h : targetOf a = .payload k) : k < 512 := by
  rcases targetOfWord_memory (.inr h) with ⟨h2, _⟩ | ⟨_, _, h2⟩
  · exact Target.noConfusion (h2.symm.trans h)
  · exact h2

/-! ### Where entries keep bytes -/

theorem cellExists_pixel (p j : Nat) (hp : p < 1024) (hj : j < 3) : cellExists (pixelBase + 4 * p + j) = true := by
  have h : (pixelBase + 4 * p + j) / 4 = 0x400 + p := by simp only [pixelBase]; omega
  have h2 : (pixelBase + 4 * p + j) % 4 = j := by simp only [pixelBase]; omega
  simp only [cellExists, h, targetOfWord_pixel p hp, h2, hj, decide_true]

theorem cellExists_palette (i j : Nat) (hi : i < 256) (hj : j < 3) :
    cellExists (paletteBase + 4 * i + j) = true := by
  have h : (paletteBase + 4 * i + j) / 4 = 0xC00 + i := by simp only [paletteBase]; omega
  have h2 : (paletteBase + 4 * i + j) % 4 = j := by simp only [paletteBase]; omega
  simp only [cellExists, h, targetOfWord_palette i hi, h2, hj, decide_true]

theorem cellExists_index (p : Nat) (hp : p < 1024) : cellExists (indexBase + 4 * p) = true := by
  have h : (indexBase + 4 * p) / 4 = 0x1000 + p := by simp only [indexBase]; omega
  have h2 : (indexBase + 4 * p) % 4 = 0 := by simp only [indexBase]; omega
  simp only [cellExists, h, targetOfWord_index p hp, h2, decide_true]

theorem cellExists_payload (a : Nat) (h1 : payloadBase ≤ a) (h2 : a < payloadBase + payloadSize) : cellExists a = true := by
  simp only [payloadBase, payloadSize] at h1 h2
  have h : a / 4 = 0x800 + (a / 4 - 0x800) := by omega
  rw [cellExists, h, targetOfWord_payload _ (by omega)]

theorem cellExists_pack (a : Nat) (h1 : packBase ≤ a) (h2 : a < packBase + packSize) : cellExists a = true := by
  simp only [packBase, packSize] at h1 h2
  have h : a / 4 = 0xD00 + (a / 4 - 0xD00) := by omega
  rw [cellExists, h, targetOfWord_pack _ (by omega)]

theorem cellExists_out (a : Nat) (h1 : outBase ≤ a) (h2 : a < outBase + outSize) : cellExists a = true := by
  simp only [outBase, outSize] at h1 h2
  have h : a / 4 = 0x2000 + (a / 4 - 0x2000) := by omega
  rw [cellExists, h, targetOfWord_out _ (by omega)]

/-! ### Lanes -/

theorem wordOfBytes_byteOfWord (v : Word) :
    wordOfBytes (byteOfWord v 0) (byteOfWord v 1) (byteOfWord v 2) (byteOfWord v 3) = v := by
  apply BitVec.eq_of_getLsbD_eq
  intro i hi
  simp only [wordOfBytes, byteOfWord, BitVec.getLsbD_append, BitVec.getLsbD_extractLsb']
  interval_cases i <;> simp

theorem byteOfWord_wordOfBytes (b0 b1 b2 b3 : Byte) (j : Nat) (hj : j < 4) :
    byteOfWord (wordOfBytes b0 b1 b2 b3) j = [b0, b1, b2, b3][j] := by
  apply BitVec.eq_of_getLsbD_eq
  intro i hi
  simp only [wordOfBytes, byteOfWord, BitVec.getLsbD_append, BitVec.getLsbD_extractLsb', hi, decide_true,
    Bool.true_and]
  interval_cases j <;> interval_cases i <;> simp

end Sys2Proof.Machine
end

