-- ==== Sys2Proof/Laws/Reads.lean ====
section
/-! SUPPORT. What a host read finds: one lemma for each kind of window word, so that no proof unfolds a
`Reading`. -/

namespace Sys2Proof.Machine

/-- A read resolves what its word holds with the value drawn for its unspecified bits. -/
theorem memRead_of_target {a : Addr} {t : Target} (s : State) (h : targetOf a = t) :
    s.memRead a = (s.readTarget t).resolve (Config.anyWord (a &&& 0xFFFC) s.draws) := by rw [State.memRead, h]

theorem resolve_exactly (v d : Word) : (exactly v).resolve d = v := by simp [exactly, Reading.resolve]

/-- Where a mask bit is 0 the defined bit is read. -/
theorem getLsbD_resolve_masked (v m d : Word) (i : Nat) (h : m.getLsbD i = false) :
    ((masked v m true).resolve d).getLsbD i = v.getLsbD i := by
  simp only [masked, if_true, Reading.resolve, BitVec.getLsbD_or, BitVec.getLsbD_and, BitVec.getLsbD_not, h,
    Bool.and_false, Bool.or_false, Bool.not_false, Bool.and_true]
  by_cases hi : i < 32
  · simp [hi]
  · simp [hi, BitVec.getLsbD_of_ge v i (by omega)]

/-- With no command running, a register reads its value. -/
theorem readCsr_idle {s : State} (h : s.seq = .idle) (r : Csr) : s.readCsr r = exactly (s.csrWord r) := by
  have : s.running = none := by simp [State.running, h]
  simp only [State.readCsr, this]

/-- A register outside the running command's write set reads its value. -/
theorem readCsr_outside {s : State} {snap : Snapshot} {k : Nat} {r : Csr} (h : s.seq = .run snap k)
    (hr : r ≠ .status) (hw : snap.writesCsr r = false) : s.readCsr r = exactly (s.csrWord r) := by
  have : s.running = some snap := by simp [State.running, h]
  cases r <;> first | exact absurd rfl hr | simp only [State.readCsr, this, hw, masked, Bool.false_eq_true, if_false]

/-- A colour entry that holds a value and is not unspecified for another reason reads it. -/
theorem readColour_held {s : State} {a : Nat} {c : Colour} (h : s.mem.colour? a = some c) :
    s.readColour a false = exactly (c.setWidth 32) := by
  rw [State.readColour, colourAt_of_colour? h, colourWritten_of_colour? h]; rfl

/-- An INDEX_MEM entry that holds a value and is not unspecified for another reason reads it. -/
theorem readIndex_held {s : State} {a : Nat} {b : Byte} (h : s.mem.read a = some b) :
    s.readIndex a false = exactly (b.setWidth 32) := by
  rw [State.readIndex, byteAt_of_read h, byteWritten_of_read h]; rfl

/-- A byte that holds a value, below its valid length and beyond what a running command writes, is read. -/
theorem readByte_held {s : State} {base valid pending n : Nat} {b : Byte} (h : s.mem.read (base + n) = some b)
    (hv : n < valid) (hp : pending ≤ n) : s.readByte base valid pending n = (b, 0) := by
  have : s.byteOpen base valid pending n = false := by
    rw [State.byteOpen, byteWritten_of_read h, decide_eq_false (by omega), decide_eq_false (by omega)]; rfl
  rw [State.readByte, this, h]; rfl

/-- Lane `j` of a word of a byte memory is its byte, resolved with lane `j` of the drawn word. -/
theorem byteOfWord_readBytes (s : State) (base valid pending k : Nat) (d : Word) (j : Nat) (hj : j < 4) :
    byteOfWord ((s.readBytes base valid pending k).resolve d) j =
      (s.readByte base valid pending (4 * k + j)).1
        ||| (byteOfWord d j &&& (s.readByte base valid pending (4 * k + j)).2) := by
  have lanes : ∀ v m : Word, byteOfWord (v ||| (d &&& m)) j = byteOfWord v j ||| (byteOfWord d j &&& byteOfWord m j) := by
    intro v m
    apply BitVec.eq_of_getLsbD_eq
    intro i hi
    simp only [byteOfWord, BitVec.getLsbD_extractLsb', BitVec.getLsbD_or, BitVec.getLsbD_and, hi, decide_true,
      Bool.true_and]
  rw [Reading.resolve, lanes]
  simp only [State.readBytes, byteOfWord_wordOfBytes _ _ _ _ j hj]
  interval_cases j <;> rfl

end Sys2Proof.Machine
end

