-- ==== Sys2Proof/Tests/Slice0.lean ====
section
/-! SUPPORT. Tests on fixed values, taken from the spec's own vectors (95_test_vectors.md, named in each comment) and
from its opcode map, and one witness for the hypotheses of every statement. -/

namespace Sys2Proof.Tests

open Sys2Proof Sys2Proof.Machine

/-! ### Well-formedness: one ill-formed word for each check -/

theorem test_wf_rsvd_set_is_refused : CommandWord.rsvdClear { rsvd := 1, op := 1 } = false := by decide
theorem test_wf_rsvd_high_bit_is_refused : CommandWord.wf { rsvd := 0x8000000, op := 0 } = false := by decide
theorem test_wf_reserved_op_6_is_refused : CommandWord.opAssigned { rsvd := 0, op := 6 } = false := by decide
theorem test_wf_reserved_op_14_is_refused : CommandWord.wf { rsvd := 0, op := 14 } = false := by decide
theorem test_wf_softReset_is_legal : CommandWord.wf { rsvd := 0, op := 15 } = true := by decide

/-! ### Decoding: words written out from 30_encoding.md R90, R91: 28 RSVD bits, then 4 OP bits -/

theorem test_decode_nop : decodeTableWord 32 0b0000000000000000000000000000_0000 = some .nop := by decide
theorem test_decode_quantize : decodeTableWord 32 0b0000000000000000000000000000_0001 = some .quantize := by decide
theorem test_decode_pack : decodeTableWord 32 0b0000000000000000000000000000_0010 = some .pack := by decide
theorem test_decode_buildPayload :
    decodeTableWord 32 0b0000000000000000000000000000_0011 = some .buildPayload := by decide
theorem test_decode_frame : decodeTableWord 32 0b0000000000000000000000000000_0100 = some .frame := by decide
theorem test_decode_encode : decodeTableWord 32 0b0000000000000000000000000000_0101 = some .encode := by decide
theorem test_decode_softReset : decodeTableWord 32 0b0000000000000000000000000000_1111 = some .softReset := by
  decide
/-- R92: E4's word, OP = 1 with RSVD bit 4 set. -/
theorem test_decode_rsvd_word : decodeWord 0x11 = .error .reservedBits := by rfl
/-- R93: every OP in 0x6 .. 0xE. -/
theorem test_decode_reserved_ops : ∀ op : Fin 9, decodeTableWord 32 (6 + op.1) = none := by decide

/-! ### Pure functions -/

/-- Q7 -/
theorem test_scan_q7 : scan [0x00000C, 0x00000A, 0x00000C, 0x00000B]
    = ([0x00000C, 0x00000A, 0x00000B], [0, 1, 0, 2]) := by decide
/-- Q8, Q9, Q11 -/
theorem test_reduce_q8_q9_q11 :
    [reduce 0xFFFFFF, reduce 0x1F3F7F, reduce 0x000100] = [0xE0E0C0, 0x002040, 0x000000] := by decide
/-- The BitWidth row of section 3. -/
theorem test_bitWidth_row : [1, 2, 3, 4, 5, 8, 9, 16, 17, 32, 33, 64, 65, 128, 129, 256].map bitWidthOf
    = [1, 1, 2, 2, 3, 3, 4, 4, 5, 5, 6, 6, 7, 7, 8, 8] := by decide
/-- P1 -/
theorem test_pack_p1 : packIndices [1, 2, 3, 4, 5, 6, 7, 0] 3 = [0xD1, 0x58, 0x1F] := by decide
/-- P2: a partial last byte -/
theorem test_pack_p2 : packIndices [1, 0, 1, 1, 0, 0, 0, 1, 1] 1 = [0x8D, 0x01] := by decide
/-- P3 and P8: fields across bytes -/
theorem test_pack_p3_p8 : packIndices [31, 0, 17, 5] 5 = [0x1F, 0xC4, 0x02]
    ∧ packIndices [0x7F, 0x00, 0x55] 7 = [0x7F, 0x40, 0x15] := by decide
/-- P4 and P5: width 8, and an index masked to the width -/
theorem test_pack_p4_p5 : packIndices [0x12, 0xAB] 8 = [0x12, 0xAB] ∧ packIndices [9, 2] 3 = [0x11] := by decide
/-- The round trip of section 3. -/
theorem test_unpack_p1 : unpack [0xD1, 0x58, 0x1F] 3 8 = [1, 2, 3, 4, 5, 6, 7, 0] := by decide
/-- H3 and H4 -/
theorem test_subHeader_h3_h4 :
    subHeader 64 768 = [0x00, 0x0A, 0x0A, 0x04, 0xAA, 0x08, 0x03, 0x00, 0x00, 0x03, 0x40, 0x00]
    ∧ subHeader 256 1024 = [0x00, 0x0A, 0x0A, 0x04, 0xAA, 0x08, 0x04, 0x00, 0x00, 0x03, 0x00, 0x01] := by decide
/-- F1 and F2 -/
theorem test_frame_f1_f2 : frameBytes 0x44 [] false = [0x01, 0x03, 0x00, 0x44, 0x47, 0x00, 0x02]
    ∧ frameBytes 0x44 [] true = [0x01, 0x03, 0x06, 0x00, 0x44, 0x47, 0x00, 0x02] := by decide
/-- F7: 0x04, 0x05 and 0x06 are not stuffed -/
theorem test_frame_f7 : frameBytes 0x02 [0x04, 0x05, 0x06] true
    = [0x01, 0x06, 0x00, 0x03, 0x05, 0x04, 0x05, 0x06, 0x17, 0x00, 0x02] := by decide
/-- R168, U7: sequences no stuffing produces -/
theorem test_unstuff_refuses : unstuffBytes [0x03] = none ∧ unstuffBytes [0x03, 0x07] = none := by decide

/-! ### One step -/

/-- An idle block with CTRL = 0 and nothing written. -/
def idle : State := { State.reset with stuff := false }

/-- A block whose command completes at the next tick. -/
def last (snap : Snapshot) : State := { idle with seq := .run snap 1 }

/-- The host writes `v` to `a` next. -/
def State.writing (s : State) (a : Addr) (v : Word) : State := { s with turns := [.write a v] }

/-- The outcome is a next state with the property. -/
def nextHas (p : State → Bool) : Outcome → Bool
  | .next t => p t
  | _ => false

/-- E15: DONE and irq after NOP -/
theorem test_nop_sets_done_and_irq :
    nextHas (fun t => t.done && t.irq && !t.busy) (step { last .nop with irqEn := true }) = true := by decide
/-- E7: NOP while busy is code 2, and the running command goes on -/
theorem test_nop_while_busy : nextHas (fun t => t.errCode == 2 && t.err && t.busy)
    (step ((last (.encode [] false)).withFetchWord 32 0)) = true := by decide
/-- Q7 through QUANTIZE: palette entry 1, index 3, PAL_COUNT -/
theorem test_quantize_completes : nextHas (fun t => t.mem.colour? 0x3004 == some 0x00000A
    && t.mem.read 0x400C == some 2 && t.palCount == 3 && t.qvalid && !t.reduced)
    (step (last (.quantize [0x00000C, 0x00000A, 0x00000C, 0x00000B]))) = true := by decide
/-- E17: pixels 0 to 4 written, pixel 5 not -/
theorem test_quantize_e17 :
    exec .quantize { idle with mem := colourCells 0x1000 [0, 0, 0, 0, 0] } = .fault (.unwrittenPixel .quantize 5) := by
  rfl
/-- E1 -/
theorem test_pack_e1 : nextHas (fun t => t.err && t.errCode == 3 && !t.busy && !t.done)
    (step (idle.withFetchWord 32 2)) = true := by decide
/-- P1 through PACK, with PAL_COUNT = 8 -/
theorem test_pack_completes : nextHas (fun t => t.mem.read 0x3401 == some 0x58 && t.bitWidth == 3
    && t.packLen == 3 && t.pvalid)
    (step (last (.pack [1, 2, 3, 4, 5, 6, 7, 0] 8 true))) = true := by decide
/-- E2 -/
theorem test_buildPayload_e2 : nextHas (fun t => t.err && t.errCode == 4)
    (step (State.withFetchWord { idle with qvalid := true } 32 3)) = true := by decide
/-- R153: the first palette byte is red, after 12 bytes of sub-header; 12 + 3 + 1 bytes in all -/
theorem test_buildPayload_completes : nextHas (fun t => t.mem.read 0x200C == some 0x10
    && t.mem.read 0x200E == some 0x30 && t.payloadLen == 16 && t.yvalid)
    (step (last (.buildPayload [0x102030] 1 [0xFF] 1 true true))) = true := by decide
/-- E5 -/
theorem test_frame_e5 : nextHas (fun t => t.err && t.errCode == 5)
    (step (State.withFetchWord { idle with payloadLen := 2049 } 32 4)) = true := by decide
/-- F4 through FRAME: bytes 3 to 6, OUT_LEN, INNER_LEN, CHECKSUM -/
theorem test_frame_f4 : nextHas (fun t => t.mem.read 0x8003 == some 0x03 && t.mem.read 0x8004 == some 0x04
    && t.mem.read 0x800B == some 0x02 && t.outLen == 12 && t.innerLen == 5 && t.checksum == 0x0B && t.fvalid)
    (step (last (.frame 0x01 2 [0x02, 0x03] true))) = true := by decide
/-- R186: the frame's command byte is 0x44 whatever FRAME_CMD is -/
theorem test_encode_completes : nextHas (fun t => t.mem.read 0x8003 == some 0x44 && t.frameCmd == 0x99
    && t.qvalid && t.pvalid && t.yvalid && t.fvalid)
    (step { last (.encode [0x102030, 0x102030] false) with frameCmd := 0x99 }) = true := by decide
/-- R187's example: STATUS = 0x7A -/
theorem test_softReset_clears_status : nextHas (fun t => t.statusWord == 0 && t.palCount == 0)
    (step (State.withFetchWord { idle with
      done := true, qvalid := true, pvalid := true, yvalid := true, fvalid := true, palCount := 9 } 32 15)) = true := by
  decide
/-- E16 -/
theorem test_softReset_while_busy : nextHas (fun t => t.errCode == 2 && t.irqEn)
    (step (State.withFetchWord { last .nop with irqEn := true } 32 15)) = true := by decide
/-- E14: STATUS = 0x7A, a write of 0x2 leaves 0x78 -/
theorem test_status_e14 : nextHas (fun t => t.statusWord == 0x78)
    (step (State.writing { idle with done := true, qvalid := true, pvalid := true, yvalid := true, fvalid := true }
      0x000C 0x2)) = true := by decide
/-- E6: PAYLOAD_LEN keeps bits 15:0 -/
theorem test_payloadLen_e6 : nextHas (fun t => t.payloadLen == 0x2345)
    (step (State.writing idle 0x0018 0x12345)) = true := by decide
/-- E8: the first code is kept -/
theorem test_error_e8 : nextHas (fun t => t.errCode == 3)
    (step (State.writing { idle with err := true, errCode := 3 } 0x0008 0x6)) = true := by decide
/-- E10: a pixel write clears QVALID; Q6: alpha is dropped -/
theorem test_pixel_write : nextHas (fun t => !t.qvalid && t.mem.colour? 0x1000 == some 0x102030)
    (step (State.writing { idle with qvalid := true } 0x1000 0xFF102030)) = true := by decide
/-- E11: a write to PALETTE_MEM is ignored -/
theorem test_palette_write_e11 : step (State.writing idle 0x3000 0x123456) = .next idle := by rfl
/-- E12 and E13: CMD and a reserved word read 0 -/
theorem test_reads_e12_e13 : idle.readTarget (targetOf 0x0008) = exactly 0
    ∧ idle.readTarget (targetOf 0x0034) = exactly 0 := by decide

/-! ### Witnesses: states and operands that meet the hypotheses of each statement -/

/-- All 1024 pixels are 0x102030. -/
def painted : State := { idle with mem := colourCells pixelBase (List.replicate 1024 0x102030) }

/-- The largest legal payload, all zero, in PAYLOAD_MEM. -/
def loaded : State :=
  { idle with mem := byteCells payloadBase (List.replicate 2048 0), payloadLen := 2048 }

/-- F1's frame in OUT_MEM. -/
def framed : State :=
  { idle with
    mem := byteCells outBase [0x01, 0x03, 0x00, 0x44, 0x47, 0x00, 0x02]
    outLen := 7, innerLen := 3, checksum := 0x47, fvalid := true }

theorem read_painted (p j : Nat) (hp : p < 1024) (hj : j < 3) :
    ∃ b, painted.mem.read (pixelBase + 4 * p + j) = some b := by
  have h := Memory.read_colourCells pixelBase (List.replicate 1024 0x102030) p j hj
  rw [List.getElem?_replicate, if_pos hp] at h
  exact ⟨_, h⟩

theorem painted_written : painted.PixelsWritten := by
  intro p hp
  obtain ⟨_, h0⟩ := read_painted p 0 hp (by omega)
  obtain ⟨_, h1⟩ := read_painted p 1 hp (by omega)
  obtain ⟨_, h2⟩ := read_painted p 2 hp (by omega)
  exact (colourWritten_iff _ _).2 ⟨byteWritten_of_read h0, byteWritten_of_read h1, byteWritten_of_read h2⟩

theorem loaded_written : loaded.PayloadWritten := by
  intro b hb
  have hb : b < 2048 := hb
  have h : loaded.mem.read (payloadBase + b) = some 0 := by
    show Memory.read (byteCells payloadBase (List.replicate 2048 0)) (payloadBase + b) = _
    rw [Memory.read_byteCells, if_pos (by omega), Nat.add_sub_cancel_left, List.getElem?_replicate, if_pos hb]
  exact byteWritten_of_read h

theorem framed_holds : framed.HoldsFrame 0x44 [] false := by
  refine ⟨by decide, by decide, by decide, by decide, ?_⟩
  intro b hb
  have hb : b < 7 := hb
  interval_cases b <;> rfl

theorem test_witness_IllegalCommandWordsAreRejected : targetOf 0x0008 = .csr .cmd ∧ ∀ w : Word,
    w = 0x11 ∨ w = 0x6 ∨ w = 0xE →
    (State.writing idle 0x0008 w).turns = [.write 0x0008 w] ∧ (State.writing idle 0x0008 w).busy = false
    ∧ (State.writing (last .nop) 0x0008 w).turns = [.write 0x0008 w]
    ∧ (State.writing (last .nop) 0x0008 w).busy = true
    ∧ (w.extractLsb' 4 28 ≠ 0 ∨ (w.extractLsb' 4 28 = 0 ∧ 6 ≤ (w.extractLsb' 0 4).toNat
      ∧ (w.extractLsb' 0 4).toNat ≤ 14)) := by
  refine ⟨by decide, fun w hw => ⟨rfl, rfl, rfl, rfl, ?_⟩⟩
  rcases hw with rfl | rfl | rfl <;> decide
theorem test_witness_StepRunsTheCommandWrittenToCmd : (State.writing idle 0x0008 0xF).turns = [.write 0x0008 0xF]
    ∧ targetOf 0x0008 = .csr .cmd ∧ decodeWord 0xF = .ok .softReset ∧ Instr.softReset.wf = true :=
  ⟨rfl, by decide, rfl, rfl⟩
theorem test_witness_NopGoesThroughBusyAndSetsDone : idle.Ready := ⟨rfl, rfl⟩
theorem test_witness_QuantizeCompletesWithPaletteAndIndices : painted.Ready ∧ painted.PixelsWritten :=
  ⟨⟨rfl, rfl⟩, painted_written⟩
theorem test_witness_PackCompletesWithPackedIndices :
    State.Ready { idle with qvalid := true, palCount := 256 } ∧ (256 : BitVec 9).toNat ≤ 256 :=
  ⟨⟨rfl, rfl⟩, by decide⟩
theorem test_witness_BuildPayloadCompletesWithImagePayload :
    State.Ready { idle with qvalid := true, pvalid := true, palCount := 256, packLen := 1024 }
    ∧ (256 : BitVec 9).toNat ≤ 256 ∧ (1024 : BitVec 11).toNat ≤ 1024 := ⟨⟨rfl, rfl⟩, by decide, by decide⟩
theorem test_witness_FrameCompletesWithWireFrame :
    (loaded.Ready ∧ loaded.payloadLen.toNat ≤ 2048 ∧ loaded.PayloadWritten)
    ∧ idle.Ready ∧ idle.payloadLen.toNat ≤ 2048 ∧ idle.PayloadWritten :=
  ⟨⟨⟨rfl, rfl⟩, by decide, loaded_written⟩, ⟨rfl, rfl⟩, by decide, fun b hb => absurd hb (Nat.not_lt_zero b)⟩
theorem test_witness_EncodeCompletesWithTheWholePipeline : painted.Ready ∧ painted.PixelsWritten :=
  ⟨⟨rfl, rfl⟩, painted_written⟩
theorem test_witness_SoftResetResetsTheRegistersOnly : framed.seq = .idle ∧ (last .nop).busy = true := by decide
theorem test_witness_BusyBlockRejectsEveryCommand : (last .nop).busy = true := by decide
theorem test_witness_SequencingChecksRejectWithTheirCodes : (idle.seq = .idle ∧ idle.qvalid = false)
    ∧ (State.seq { idle with qvalid := true } = .idle ∧ State.pvalid { idle with qvalid := true } = false)
    ∧ 2048 < (State.payloadLen { idle with payloadLen := 2049 }).toNat := by decide
/-- Every pixel but the last is written. -/
def almostPainted : State := { idle with mem := colourCells pixelBase (List.replicate 1023 0) }

/-- Every byte of the largest payload but the last is written. -/
def almostLoaded : State :=
  { idle with mem := byteCells payloadBase (List.replicate 2047 0), payloadLen := 2048 }

/-- The lowest unwritten pixel is 0 (of `idle`) or 1023. -/
theorem test_witness_UnwrittenInputIsTheNamedModelFault_pixel :
    (idle.seq = .idle ∧ idle.mem.colourWritten (pixelBase + 4 * 0) = false)
    ∧ almostPainted.seq = .idle ∧ (∀ p < 1023, almostPainted.mem.colourWritten (pixelBase + 4 * p) = true)
    ∧ almostPainted.mem.colourWritten (pixelBase + 4 * 1023) = false := by
  refine ⟨⟨rfl, rfl⟩, rfl, fun p hp => ?_, ?_⟩
  · have h : ∀ j < 3, ∃ b, almostPainted.mem.read (pixelBase + 4 * p + j) = some b := by
      intro j hj
      have h := Memory.read_colourCells pixelBase (List.replicate 1023 0) p j hj
      rw [List.getElem?_replicate, if_pos hp] at h
      exact ⟨_, h⟩
    obtain ⟨_, h0⟩ := h 0 (by omega)
    obtain ⟨_, h1⟩ := h 1 (by omega)
    obtain ⟨_, h2⟩ := h 2 (by omega)
    exact (colourWritten_iff _ _).2 ⟨byteWritten_of_read h0, byteWritten_of_read h1, byteWritten_of_read h2⟩
  · have h := Memory.read_colourCells pixelBase (List.replicate 1023 0) 1023 0 (by omega)
    rw [List.getElem?_replicate, if_neg (by omega)] at h
    have h' : almostPainted.mem.read (pixelBase + 4 * 1023) = none := h
    simp only [Memory.colourWritten, Memory.byteWritten, h', Option.isSome_none, Bool.false_and]
/-- The lowest unwritten payload byte is 0 or 2047. -/
theorem test_witness_UnwrittenInputIsTheNamedModelFault_payload :
    (State.seq { idle with payloadLen := 1 } = .idle ∧ 0 < (State.payloadLen { idle with payloadLen := 1 }).toNat
      ∧ idle.mem.byteWritten (payloadBase + 0) = false)
    ∧ almostLoaded.seq = .idle ∧ 2047 < almostLoaded.payloadLen.toNat ∧ almostLoaded.payloadLen.toNat ≤ 2048
    ∧ (∀ b < 2047, almostLoaded.mem.byteWritten (payloadBase + b) = true)
    ∧ almostLoaded.mem.byteWritten (payloadBase + 2047) = false := by
  have read : ∀ b, almostLoaded.mem.read (payloadBase + b) = if b < 2047 then some 0 else none := by
    intro b
    have h := Memory.read_byteCells payloadBase (List.replicate 2047 0) (payloadBase + b)
    rw [if_pos (by omega), Nat.add_sub_cancel_left, List.getElem?_replicate] at h
    exact h
  refine ⟨⟨rfl, by decide, rfl⟩, rfl, by decide, by decide, fun b hb => ?_, ?_⟩
  · exact byteWritten_of_read ((read b).trans (if_pos hb))
  · simp only [Memory.byteWritten, (read 2047).trans (if_neg (by omega)), Option.isSome_none]
theorem test_witness_CommandWriteChangesOnlySequencerOrError :
    (∃ t, exec .nop idle = .next t ∧ t.busy = true) ∧ ∃ t, exec .pack idle = .next t ∧ t.err = true :=
  ⟨⟨_, rfl, rfl⟩, _, rfl, rfl⟩
theorem test_witness_RaisedErrorKeepsTheFirstCode :
    idle.err = false ∧ (State.err { idle with err := true, errCode := 3 }) = true := by decide
theorem test_witness_StatusWriteClearsDoneAndErr :
    (State.writing (last .nop) 0x000E 0x6).turns = [.write 0x000E 0x6] ∧ targetOf 0x000E = .csr .status :=
  ⟨rfl, by decide⟩
theorem test_witness_StepKeepsErrorCodeMatchingErr : State.ErrorInv { idle with err := true, errCode := 6 }
    ∧ ∃ t, step { idle with err := true, errCode := 6 } = .next t := ⟨⟨by decide, by decide⟩, _, rfl⟩
theorem test_witness_IrqFollowsWhatTheHostReads : ∃ t, step (last .nop) = .next t := ⟨_, rfl⟩
theorem test_witness_ReadsHaveNoSideEffect : (State.turns { idle with turns := [.read 0x8000] }) = [.read 0x8000] := rfl
theorem test_witness_FixedWordsReadTheirConstants : targetOf 0x0003 = .csr .id ∧ targetOf 0x0008 = .csr .cmd
    ∧ targetOf 0x0034 = .reserved ∧ targetOf 0xFFFC = .reserved := by decide
theorem test_witness_StatusReadsExactlyWhereItMust : idle.seq = .idle ∧ targetOf 0x0030 = .csr .outLen := by decide
theorem test_witness_PixelWriteStoresColourAndInvalidates :
    targetOf (BitVec.ofNat 16 (0x1000 + 4 * 1023)) = .pixel 1023
    ∧ (State.writing idle (BitVec.ofNat 16 (0x1000 + 4 * 1023)) 1).turns
      = [.write (BitVec.ofNat 16 (0x1000 + 4 * 1023)) 1] ∧ (State.writing idle 0x1FFC 1).seq = .idle :=
  ⟨by decide, rfl, rfl⟩
theorem test_witness_PayloadWriteStoresLittleEndianBytes :
    targetOf (BitVec.ofNat 16 (0x2000 + 4 * 511)) = .payload 511
    ∧ (State.writing loaded (BitVec.ofNat 16 (0x2000 + 4 * 511)) 1).turns
      = [.write (BitVec.ofNat 16 (0x2000 + 4 * 511)) 1]
    ∧ loaded.seq = .idle ∧ 4 * 511 + 4 ≤ loaded.payloadLen.toNat := ⟨by decide, rfl, rfl, by decide⟩
theorem test_witness_ConfigurationWritesStoreTheirFields : idle.seq = .idle
    ∧ (State.writing idle 0x0004 0xFFFFFFFF).turns = [.write 0x0004 0xFFFFFFFF] ∧ targetOf 0x0004 = .csr .ctrl
    ∧ targetOf 0x0014 = .csr .frameCmd ∧ targetOf 0x0018 = .csr .payloadLen := ⟨rfl, rfl, by decide⟩
theorem test_witness_WritesWhileBusyAreDropped : (last .nop).busy = true
    ∧ (State.writing (last .nop) 0x1FFC 0).turns = [.write 0x1FFC 0] ∧ targetOf 0x0004 = .csr .ctrl
    ∧ targetOf 0x0014 = .csr .frameCmd ∧ targetOf 0x0018 = .csr .payloadLen ∧ targetOf 0x1000 = .pixel 0
    ∧ targetOf 0x1FFC = .pixel 1023 ∧ targetOf 0x2000 = .payload 0 ∧ targetOf 0x27FC = .payload 511
    ∧ targetOf 0x0008 = .csr .cmd ∧ targetOf 0x000C = .csr .status ∧ targetOf 0x3000 = .palette 0 :=
  ⟨rfl, rfl, by decide⟩
theorem test_witness_ReadOnlyAndReservedWordsIgnoreWrites :
    (State.writing idle 0x2800 1).turns = [.write 0x2800 1] ∧ targetOf 0x0003 = .csr .id
    ∧ targetOf 0x0013 = .csr .errCode ∧ targetOf 0x001C = .csr .palCount ∧ targetOf 0x0FFF = .reserved
    ∧ targetOf 0x2800 = .reserved ∧ targetOf 0x2FFF = .reserved ∧ targetOf 0x3800 = .reserved
    ∧ targetOf 0x5000 = .reserved ∧ targetOf 0x7FFF = .reserved ∧ targetOf 0xA000 = .reserved
    ∧ targetOf 0x9FFF = .out 2047 ∧ targetOf 0x37FF = .pack 255 ∧ targetOf 0x4FFF = .index 1023 :=
  ⟨rfl, by decide⟩
/-- An idle block with an entry held at the end of each window. -/
theorem test_witness_WindowsReadTheEntriesTheyHold :
    let s : State := { idle with
      palCount := 256, packLen := 1024, payloadLen := 2048, outLen := 8192
      mem := colourCells 0x1FFC [7] ++ (byteCells 0x27FF [8] ++ (colourCells 0x33FC [9] ++ (byteCells 0x37FF [10]
        ++ (indexCells 0x4FFC [11] ++ byteCells 0x9FFF [12])))) }
    s.seq = .idle ∧ s.mem.colour? (0x1000 + 4 * 1023) = some 7 ∧ s.mem.colour? (0x3000 + 4 * 255) = some 9
    ∧ s.mem.read (0x4000 + 4 * 1023) = some 11 ∧ s.mem.read (0x2000 + 4 * 511 + 3) = some 8
    ∧ s.mem.read (0x3400 + 4 * 255 + 3) = some 10 ∧ s.mem.read (0x8000 + 4 * 2047 + 3) = some 12
    ∧ 255 < s.palCount.toNat ∧ 4 * 255 + 3 < s.packLen.toNat ∧ 4 * 511 + 3 < s.payloadLen.toNat
    ∧ 4 * 2047 + 3 < s.outLen.toNat := by
  refine ⟨rfl, rfl, rfl, rfl, rfl, rfl, rfl, ?_, ?_, ?_, ?_⟩ <;> decide
/-- FRAME runs and will write OUT_MEM bytes 0 to 6; an entry is held at the end of each window, and OUT_MEM byte 7. -/
theorem test_witness_ReadsOutsideTheWriteSetAreExact :
    let snap : Snapshot := .frame 0x44 0 [] false
    let s : State := { last snap with
      palCount := 256, packLen := 1024, payloadLen := 2048, outLen := 8
      mem := colourCells 0x1FFC [7] ++ (byteCells 0x27FF [8] ++ (colourCells 0x33FC [9] ++ (byteCells 0x37FF [10]
        ++ (indexCells 0x4FFC [11] ++ byteCells 0x8007 [12])))) }
    (s.seq = .run snap 1 ∧ targetOf 0x001C = .csr .palCount ∧ snap.writesCsr .palCount = false
      ∧ s.mem.colour? (0x1000 + 4 * 1023) = some 7 ∧ snap.writesImage = false
      ∧ s.mem.colour? (0x3000 + 4 * 255) = some 9 ∧ s.mem.read (0x4000 + 4 * 1023) = some 11
      ∧ s.mem.read (0x2000 + 4 * 511 + 3) = some 8 ∧ s.mem.read (0x3400 + 4 * 255 + 3) = some 10
      ∧ s.mem.read (0x8000 + 4 * 1 + 3) = some 12)
    ∧ snap.statusMask.getLsbD 3 = false ∧ 255 < s.palCount.toNat
    ∧ (4 * 511 + 3 < s.payloadLen.toNat ∧ snap.newPayloadLen ≤ 4 * 511 + 3)
    ∧ (4 * 255 + 3 < s.packLen.toNat ∧ snap.newPackLen ≤ 4 * 255 + 3)
    ∧ 4 * 1 + 3 < s.outLen.toNat ∧ snap.newOutLen = 4 * 1 + 3 := by
  refine ⟨⟨rfl, by decide, rfl, rfl, rfl, rfl, rfl, rfl, rfl, rfl⟩, ?_, ?_, ⟨?_, ?_⟩, ⟨?_, ?_⟩, ?_, ?_⟩ <;> decide
theorem test_witness_HostReadsOutExactlyTheFrame : framed.seq = .idle ∧ framed.HoldsFrame 0x44 [] false :=
  ⟨rfl, framed_holds⟩
theorem test_witness_HardwareResetReachesTheResetState :
    (State.turns { last .nop with turns := [.reset, .tick] }) = [.reset, .tick] := rfl
theorem test_witness_ScanBuildsFirstSeenPalette : ([0xC, 0xA, 0xC] : List Colour) ≠ [] := by decide
/-- Both clauses: a palette of 256 colours, and one of 257. -/
theorem test_witness_QuantizeLeavesAtMost256Colours :
    (scan ((List.range 256).map (BitVec.ofNat 24))).1.length = 256
    ∧ (scan ((List.range 257).map (BitVec.ofNat 24))).1.length = 257 := by decide +kernel
theorem test_witness_BitWidthIsTheLeastSufficientWidth : (1 : Nat) ≤ 1 ∧ 256 ≤ 2 ^ bitWidthOf 256 := by decide
/-- Bit 8 of P2's packing is a field bit, bit 9 is beyond the last field. -/
theorem test_witness_PackIsOneLittleEndianBitString : ([1, 0, 1, 1, 0, 0, 0, 1, 1] : List Nat) ≠ []
    ∧ 1 < (packIndices [1, 0, 1, 1, 0, 0, 0, 1, 1] 1).length ∧ 8 * 1 + 0 < 1 * 9 ∧ 1 * 9 ≤ 8 * 1 + 1 := by decide
theorem test_witness_PackLengthIsCeilingOfBits : (List.replicate 1024 0).length = 1024 := List.length_replicate
theorem test_witness_UnpackRecoversPackedIndices : ∀ x ∈ [255, 0], x < 2 ^ 8 := by decide
theorem test_witness_ImagePayloadHasItsLayoutAndFits :
    ((List.replicate 128 (0 : Byte)).length = 128 * bitWidthOf 1)
    ∧ (List.replicate 256 (0 : Colour)).length = 256
    ∧ (List.replicate 1024 (0 : Byte)).length = 128 * bitWidthOf 256 := by
  refine ⟨?_, List.length_replicate, ?_⟩ <;> rw [List.length_replicate] <;> decide
theorem test_witness_UnstuffedFrameHasItsLayout : (List.replicate 2048 (0 : Byte)).length ≤ 2048 :=
  le_of_eq List.length_replicate
theorem test_witness_StuffingRemovesDelimiterBytes : (stuffBytes [0x02])[0]? = some 0x03 := by decide
theorem test_witness_FrameLengthFitsOutMem : (List.replicate 2048 (3 : Byte)).length ≤ 2048 :=
  le_of_eq List.length_replicate
theorem test_witness_OnlyTicksAdvanceARunningCommand :
    (State.seq { idle with seq := .run .nop 2, turns := [.tick] }) = .run .nop 2
    ∧ (last .nop).turns = [] ∧ (∃ t, step { last .nop with turns := [.read 0, .tick] } = .next t)
    ∧ (State.turns { idle with turns := [.tick, .read 0] } = [.tick, .read 0])
    ∧ idle.seq = .idle ∧ idle.turns = [] := ⟨rfl, rfl, ⟨_, rfl⟩, rfl, rfl, rfl⟩
theorem test_witness_HostTurnsDoNotDisturbARunningCommand :
    State.seq { idle with seq := .run .nop 2 } = .run .nop 2 ∧ Turn.reset ∉ [Turn.tick, .write 0x1000 0, .read 0x000C] ∧
    [Turn.tick, .write 0x1000 0, .read 0x000C].count .tick + 1 = 2 := by decide
theorem test_witness_CompletionChangesOnlyTheWriteSet :
    (complete (.quantize [7]) idle).mem.read 0x3000 = some 7 ∧ idle.mem.read 0x3000 = none
    ∧ Snapshot.writesCsr (.quantize [7]) .outLen = false
    ∧ (Snapshot.statusMask (.quantize [7])).getLsbD 6 = false := by decide
theorem test_witness_EncodeEqualsTheFourCommandsInOrder :
    painted.Ready ∧ painted.PixelsWritten ∧ painted.frameCmd = 0x44 := ⟨⟨rfl, rfl⟩, painted_written, rfl⟩
theorem test_witness_StepKeepsMemoryCanonical : framed.MemoryInv ∧ ∃ t, step framed = .next t := by
  refine ⟨⟨Memory.wf_byteCells _ _, fun c hc => ?_⟩, _, rfl⟩
  have h := Memory.within_byteCells _ _ c hc
  exact cellExists_out _ h.1 (Nat.lt_of_lt_of_le h.2 (by decide))
theorem test_witness_StepKeepsValidFlagsTruthful : framed.ValidInv ∧ framed.fvalid = true ∧ ∃ t, step framed = .next t := by
  refine ⟨⟨trivial, ?_, ?_, ?_, fun _ => ⟨0x44, [], false, framed_holds⟩⟩, rfl, _, rfl⟩ <;> intro h <;> cases h
/-- QVALID rises at a completion and falls at a pixel write. -/
theorem test_witness_QvalidChangesOnlyByItsCauses :
    nextHas (fun t => t.qvalid) (step (last (.quantize [0]))) = true
    ∧ nextHas (fun t => !t.qvalid) (step (State.writing { idle with qvalid := true } 0x1000 0)) = true := by decide
/-- DONE and FVALID rise at a completion; DONE falls at a STATUS write while busy and at SOFT_RESET, FVALID at SOFT_RESET. -/
theorem test_witness_DoneAndFvalidChangeOnlyByTheirCauses :
    nextHas (fun t => t.done && t.fvalid) (step (last (.frame 0x44 0 [] false))) = true
    ∧ nextHas (fun t => !t.done) (step (State.writing { last .nop with done := true } 0x000C 0x2)) = true
    ∧ nextHas (fun t => !t.done) (step ({ idle with done := true }.withFetchWord 32 15)) = true
    ∧ nextHas (fun t => !t.fvalid) (step (framed.withFetchWord 32 15)) = true := by decide
/-- The map at the ends of the reserved ranges: each is beside a region. -/
theorem test_address_map : targetOf 0x0033 = .csr .outLen ∧ targetOf 0x0034 = .reserved ∧ targetOf 0x27FF = .payload 511
    ∧ targetOf 0x3000 = .palette 0 ∧ targetOf 0x33FF = .palette 255 ∧ targetOf 0x3400 = .pack 0
    ∧ targetOf 0x4000 = .index 0 ∧ targetOf 0x8000 = .out 0 := by decide
theorem test_witness_PixelMemChangesOnlyByTheHost :
    nextHas (fun t => t.mem.read 0x1FFE == some 0xFF) (step (State.writing idle 0x1FFC 0xFF0000)) = true := by decide

end Sys2Proof.Tests
end

section
/-! SUPPORT. The next turn: decoding of a CMD write, the host's other writes, ticks, and one inversion of `step` that
names the turn behind each change. -/

namespace Sys2Proof.Machine

/-! ### Decoding -/

theorem commandOfOp_eq_some {op : BitVec 4} {i : Instr} (h : commandOfOp op = some i) : op = i.op := by
  revert op
  cases i <;> decide

/-- A word that decodes is the word of its command (30_encoding.md R90, R91). -/
theorem eq_encode_of_decodeWord {w : Word} {i : Instr} (h : decodeWord w = .ok i) : w = encode i := by
  unfold decodeWord at h
  split at h
  · next hr =>
    split at h
    · next j hj =>
      cases h
      have hop : w.extractLsb' 0 4 = i.op := commandOfOp_eq_some hj
      have hrsvd : w.extractLsb' 4 28 = 0 := hr
      rw [encode, ← hop, ← hrsvd, BitVec.extractLsb'_append_extractLsb'_eq_extractLsb' (by rfl)]
      exact BitVec.extractLsb'_eq_self.symm
    · cases h
  · cases h

theorem decodeWord_encode (i : Instr) : decodeWord (encode i) = .ok i := by cases i <;> rfl

theorem unlessBusy_idle {s : State} (write : State → State) (h : s.seq = .idle) : unlessBusy write s = write s := by
  rw [unlessBusy, busy_of_idle s h, if_neg Bool.false_ne_true]

/-! ### A host write that is next -/

section
variable {s : State} {rest : List Turn} {a : Addr} {v : Word}

theorem step_write (ht : s.turns = .write a v :: rest) : step s = hostWrite a v { s with turns := rest } := by
  unfold step; rw [ht]; rfl

theorem step_write_cmd {i : Instr} (ht : s.turns = .write a v :: rest) (ha : targetOf a = .csr .cmd)
    (hd : decodeWord v = .ok i) : step s = exec i { s with turns := rest } := by
  rw [step_write ht, hostWrite, if_pos ha, presentCommand, hd]

theorem step_write_target {x : Target} (ht : s.turns = .write a v :: rest) (ha : targetOf a = x)
    (hx : x ≠ .csr .cmd) : step s = .next (writeTarget x v { s with turns := rest }) := by
  rw [step_write ht, hostWrite, ha, if_neg hx]

/-- An idle block takes a write to a target that a busy one drops. -/
theorem step_write_idle {x : Target} {write : State → State} (hi : s.seq = .idle)
    (ht : s.turns = .write a v :: rest) (ha : targetOf a = x) (hx : x ≠ .csr .cmd)
    (hw : ∀ s, writeTarget x v s = unlessBusy write s) : step s = .next (write { s with turns := rest }) := by
  have hi' : ({ s with turns := rest } : State).seq = .idle := hi
  rw [step_write_target ht ha hx, hw, unlessBusy_idle write hi']

end

/-! ### Completions and ticks -/

theorem complete_seq (snap : Snapshot) (s : State) : (complete snap s).seq = .idle := by cases snap <;> rfl

theorem complete_done (snap : Snapshot) (s : State) : (complete snap s).done = true := by cases snap <;> rfl

theorem busy_complete (snap : Snapshot) (s : State) : (complete snap s).busy = false :=
  busy_of_idle _ (complete_seq snap s)

/-- Everything a tick can do: nothing while idle, count down, or complete the running command. -/
theorem tick_cases (s : State) :
    tick s = s
    ∨ (∃ snap k, s.seq = .run snap k ∧ 2 ≤ k ∧ tick s = { s with seq := .run snap (k - 1) })
    ∨ ∃ snap k, s.seq = .run snap k ∧ k ≤ 1 ∧ tick s = complete snap s := by
  cases hq : s.seq with
  | idle => exact .inl (tick_idle hq)
  | run snap k =>
    by_cases h1 : k ≤ 1
    · exact .inr (.inr ⟨snap, k, rfl, h1, tick_last hq h1⟩)
    · exact .inr (.inl ⟨snap, k, rfl, by omega, tick_more hq (by omega)⟩)

/-! ### What one turn does -/

/-- What a turn can do to the block, the turn named: `Change` with the cause of each change, which the safety
statements ask for. -/
inductive TurnChange (s : State) : Turn → State → Prop where
  | tick : TurnChange s .tick (Machine.tick s)
  | reset : TurnChange s .reset (hardwareReset s)
  | read (a : Addr) : TurnChange s (.read a) (hostRead a s)
  | ignored (a : Addr) (v : Word) : TurnChange s (.write a v) s
  | error (a : Addr) (v : Word) (c : ErrorCode) : TurnChange s (.write a v) (raiseError c s)
  | status (a : Addr) (v : Word) (ha : targetOf a = .csr .status) : TurnChange s (.write a v) (s.writeStatus v)
  | ctrl (a : Addr) (v : Word) (hi : s.seq = .idle) : TurnChange s (.write a v) (s.writeCtrl v)
  | frameCmd (a : Addr) (v : Word) (hi : s.seq = .idle) : TurnChange s (.write a v) (s.writeFrameCmd v)
  | payloadLen (a : Addr) (v : Word) (hi : s.seq = .idle) : TurnChange s (.write a v) (s.writePayloadLen v)
  | pixel (a : Addr) (v : Word) (p : Nat) (hi : s.seq = .idle) (ha : targetOf a = .pixel p) :
      TurnChange s (.write a v) (s.writePixel p v)
  | payload (a : Addr) (v : Word) (k : Nat) (hi : s.seq = .idle) (ha : targetOf a = .payload k) :
      TurnChange s (.write a v) (s.writePayload k v)
  | accept (a : Addr) (v : Word) (snap : Snapshot) : TurnChange s (.write a v) (Machine.accept snap s)
  | softReset (a : Addr) (hi : s.seq = .idle) (ha : targetOf a = .csr .cmd) :
      TurnChange s (.write a 0x0000000F) (resetCsrs s)

/-- A write that a busy block drops is one of the changes once it is for an idle block (20_memory.md R82). -/
theorem turnChange_unlessBusy {s : State} {a : Addr} {v : Word} {write : State → State}
    (h : s.seq = .idle → TurnChange s (.write a v) (write s)) : TurnChange s (.write a v) (unlessBusy write s) := by
  unfold unlessBusy
  split
  · exact .error a v _
  · next hb => exact h ((busy_eq_false_iff s).1 (Bool.eq_false_of_not_eq_true hb))

theorem turnChange_writeTarget (s : State) (a : Addr) (v : Word) :
    TurnChange s (.write a v) (writeTarget (targetOf a) v s) := by
  cases ha : targetOf a with
  | csr r =>
    cases r with
    | ctrl => exact turnChange_unlessBusy (.ctrl a v)
    | frameCmd => exact turnChange_unlessBusy (.frameCmd a v)
    | payloadLen => exact turnChange_unlessBusy (.payloadLen a v)
    | status => exact .status a v ha
    | id | cmd | errCode | palCount | bitWidth | packLen | innerLen | checksum | outLen => exact .ignored a v
  | pixel p => exact turnChange_unlessBusy fun hi => .pixel a v p hi ha
  | payload k => exact turnChange_unlessBusy fun hi => .payload a v k hi ha
  | palette | pack | index | out | reserved => exact .ignored a v

theorem turnChange_of_hostWrite {s t : State} {a : Addr} {v : Word} (h : hostWrite a v s = .next t) :
    TurnChange s (.write a v) t := by
  rcases hostWrite_next h with ⟨ha, ⟨i, hd, h⟩ | ⟨c, rfl⟩⟩ | ⟨_, rfl⟩
  · rcases exec_next h with ⟨c, rfl⟩ | ⟨_, snap, _, rfl⟩ | ⟨hi, rfl, rfl⟩
    · exact .error a v c
    · exact .accept a v snap
    · rw [eq_encode_of_decodeWord hd]
      exact .softReset a hi ha
  · exact .error a v c
  · exact turnChange_writeTarget s a v

/-- The next turn is `x`; with no turn waiting it is the sequencer's tick (log 13). -/
def State.TakesTurn (s : State) (x : Turn) (rest : List Turn) : Prop :=
  s.turns = x :: rest ∨ (s.turns = [] ∧ rest = [] ∧ x = .tick)

/-- If a step answers a next state, its turn made one of those changes, at the state without the turn. -/
theorem step_turnChange {s t : State} (h : step s = .next t) :
    ∃ x rest, s.TakesTurn x rest ∧ TurnChange { s with turns := rest } x t := by
  rcases step_next h with ⟨ht, rfl⟩ | ⟨x, rest, ht, h⟩
  · exact ⟨.tick, [], .inr ⟨ht, rfl, rfl⟩, by rw [← ht]; exact .tick⟩
  · refine ⟨x, rest, .inl ht, ?_⟩
    rcases h with ⟨rfl, rfl⟩ | ⟨rfl, rfl⟩ | ⟨a, rfl, rfl⟩ | ⟨a, v, rfl, h⟩
    · exact .tick
    · exact .reset
    · exact .read a
    · exact turnChange_of_hostWrite h

theorem State.TakesTurn.tick {s : State} {rest : List Turn} (h : s.TakesTurn .tick rest) :
    s.turns = [] ∨ ∃ rest, s.turns = .tick :: rest := by
  rcases h with h | ⟨h, _⟩
  · exact .inr ⟨rest, h⟩
  · exact .inl h

theorem State.TakesTurn.turns_eq {s : State} {x : Turn} {rest : List Turn} (h : s.TakesTurn x rest)
    (hx : x ≠ .tick) : s.turns = x :: rest := h.resolve_right fun ⟨_, _, e⟩ => hx e

/-! ### CMD and STATUS writes -/

/-- Settles O4: a write to CMD goes through the decoder to `exec`, and the word of a command decodes to it. -/
theorem stepRunsTheCommandWrittenToCmd : Obligations.StepRunsTheCommandWrittenToCmd := by
  refine ⟨fun s rest a w i ht ha hd _ => step_write_cmd ht ha hd, fun s i => ?_⟩
  have hw : BitVec.ofNat 32 ((encode i).toNat % 2 ^ 32) = encode i := by
    rw [Nat.mod_eq_of_lt (encode i).isLt, BitVec.ofNat_toNat, BitVec.setWidth_eq]
  have ht : (s.withFetchWord 32 (encode i).toNat).turns = .write cmdAddr (encode i) :: s.turns := by
    rw [State.withFetchWord, hw, commandTurn]
  exact step_write_cmd ht rfl (decodeWord_encode i)

/-- Settles O18: a write to STATUS is `State.writeStatus`, whatever runs. -/
theorem statusWriteClearsDoneAndErr : Obligations.StatusWriteClearsDoneAndErr := by
  intro s rest a v ht ha
  rw [step_write_target ht ha (by decide)]
  have w1c (b c : Bool) : (b && !c) = if c then false else b := by cases c <;> simp
  simp only [writeTarget, State.writeStatus, w1c]

end Sys2Proof.Machine
end

section
/-! PROOFS. ERR and ERR_CODE over every step (10_state.md R39). -/

namespace Sys2Proof.Machine

theorem tick_keeps_error (s : State) : (tick s).err = s.err ∧ (tick s).errCode = s.errCode := by
  rcases tick_cases s with e | ⟨snap, k, _, _, e⟩ | ⟨snap, k, _, _, e⟩
  · rw [e]; exact ⟨rfl, rfl⟩
  · rw [e]; exact ⟨rfl, rfl⟩
  · rw [e]
    obtain ⟨_, _, herr, hcode, _⟩ := complete_keeps snap s
    exact ⟨herr, hcode⟩

section
variable {s t : State}

theorem State.ErrorInv.congr (h : s.ErrorInv) (herr : t.err = s.err) (hcode : t.errCode = s.errCode) : t.ErrorInv := by
  unfold State.ErrorInv
  rw [herr, hcode]
  exact h

theorem errorInv_clear (herr : s.err = false) (hcode : s.errCode = 0) : s.ErrorInv := by
  simp [State.ErrorInv, herr, hcode]

theorem ErrorCode.bits_range (c : ErrorCode) : c.bits ≠ 0 ∧ c.bits.toNat ≤ 6 := by cases c <;> decide

theorem errorInv_raiseError (h : s.ErrorInv) (c : ErrorCode) : (raiseError c s).ErrorInv := by
  obtain ⟨hiff, hle⟩ := h
  obtain ⟨hne, hle'⟩ := c.bits_range
  unfold State.ErrorInv
  rw [raiseError_err, raiseError_errCode]
  cases herr : s.err with
  | false => simpa using ⟨hne, hle'⟩
  | true =>
    have hcode : s.errCode ≠ 0 := fun e => by simp [hiff.2 e] at herr
    simpa using ⟨hcode, hle⟩

theorem errorInv_writeStatus (h : s.ErrorInv) (v : Word) : (s.writeStatus v).ErrorInv := by
  cases hv : v.getLsbD 2 with
  | false =>
    exact h.congr (by rw [writeStatus_err, hv, Bool.not_false, Bool.and_true]) (by rw [writeStatus_errCode, hv]; rfl)
  | true =>
    exact errorInv_clear (by rw [writeStatus_err, hv, Bool.not_true, Bool.and_false])
      (by rw [writeStatus_errCode, if_pos hv])

theorem errorInv_change (h : s.ErrorInv) (c : Change s t) : t.ErrorInv := by
  cases c with
  | tick => exact h.congr (tick_keeps_error s).1 (tick_keeps_error s).2
  | error c => exact errorInv_raiseError h c
  | status v => exact errorInv_writeStatus h v
  | softReset => exact errorInv_clear rfl rfl
  | hardReset => exact errorInv_clear rfl rfl
  | same | read | ctrl | frameCmd | payloadLen | pixel | payload | accept => exact h.congr rfl rfl

end

/-- Settles O19: only an error, a write to STATUS and the resets touch ERR and ERR_CODE, and each touches both. -/
theorem stepKeepsErrorCodeMatchingErr : Obligations.StepKeepsErrorCodeMatchingErr := by
  intro s t h hstep
  obtain ⟨rest, c⟩ := step_change hstep
  have h' : State.ErrorInv { s with turns := rest } := h
  exact errorInv_change h' c

end Sys2Proof.Machine
end

section
/-! PROOFS. What the host reads of the registers, and that what it writes to them reads back (10_state.md R26 to
R47). -/

namespace Sys2Proof.Machine

/-! ### Registers and STATUS bits as the host reads them -/

section
variable {s : State} {a : Addr} {r : Csr}

theorem memRead_csr_of_exactly (ha : targetOf a = .csr r) (h : s.readCsr r = exactly (s.csrWord r)) :
    s.memRead a = s.csrWord r := by
  rw [memRead_of_target s ha, State.readTarget, h, resolve_exactly]

theorem memRead_csr_idle (hi : s.seq = .idle) (ha : targetOf a = .csr r) : s.memRead a = s.csrWord r :=
  memRead_csr_of_exactly ha (readCsr_idle hi r)

/-- The registers that no command writes. -/
abbrev hostCsrs : List Csr := [.id, .ctrl, .cmd, .errCode, .frameCmd]

theorem writesCsr_hostCsrs (snap : Snapshot) : ∀ r ∈ hostCsrs, snap.writesCsr r = false := by
  intro r hr
  simp only [List.mem_cons, List.not_mem_nil, or_false] at hr
  rcases hr with rfl | rfl | rfl | rfl | rfl <;> cases snap <;> rfl

/-- A register that no command writes reads its value, whatever runs (20_memory.md R73). -/
theorem memRead_hostCsr (hr : r ∈ hostCsrs) (ha : targetOf a = .csr r) : s.memRead a = s.csrWord r := by
  cases hq : s.seq with
  | idle => exact memRead_csr_idle hq ha
  | run snap k =>
    have hne : r ≠ .status := fun e => absurd (e ▸ hr) (by decide)
    exact memRead_csr_of_exactly ha (readCsr_outside hq hne (writesCsr_hostCsrs snap r hr))

theorem memRead_reserved (ha : targetOf a = .reserved) : s.memRead a = 0 := by
  rw [memRead_of_target s ha, State.readTarget, resolve_exactly]

/-- No command's write set holds BUSY, DONE, ERR or a reserved bit of STATUS. -/
theorem getLsbD_statusMask (snap : Snapshot) {i : Nat} (hi : i < 3 ∨ 8 ≤ i) : snap.statusMask.getLsbD i = false := by
  have hmask : snap.statusMask = snap.statusMask &&& 0xF8 := by
    cases snap <;> simp only [Snapshot.statusMask] <;> decide
  have hbit : (0xF8 : Word).getLsbD i = false := by
    rcases hi with hi | hi
    · interval_cases i <;> rfl
    · exact Nat.testBit_lt_two_pow ((by decide : 0xF8 < 2 ^ 8).trans_le (Nat.pow_le_pow_right (by decide) hi))
  rw [hmask, BitVec.getLsbD_and, hbit, Bool.and_false]

/-- A STATUS bit outside every write set reads exactly, whatever runs (20_memory.md R73). -/
theorem getLsbD_memRead_status (s : State) (ha : targetOf a = .csr .status) {i : Nat} (hi : i < 3 ∨ 8 ≤ i) :
    (s.memRead a).getLsbD i = s.statusWord.getLsbD i := by
  cases hq : s.seq with
  | idle => rw [memRead_csr_idle hq ha]; rfl
  | run snap k =>
    have hrun : s.running = some snap := by simp only [State.running, hq]
    rw [memRead_of_target s ha, State.readTarget, State.readCsr, hrun]
    exact getLsbD_resolve_masked _ _ _ i (getLsbD_statusMask snap hi)

end

theorem getLsbD_bitAt {n : Nat} (b : Bool) (hn : n < 32) (i : Nat) :
    (bitAt n b).getLsbD i = (b && decide (i = n)) := by
  cases b with
  | false => simp [bitAt]
  | true =>
    have e : bitAt n true = BitVec.twoPow 32 n := by rw [BitVec.twoPow_eq]; rfl
    rw [e, BitVec.getLsbD_twoPow, decide_eq_true hn, Bool.true_and, Bool.true_and]
    exact decide_eq_decide.2 eq_comm

theorem getLsbD_statusWord (s : State) (i : Nat) : s.statusWord.getLsbD i =
    (s.busy && decide (i = 0) || s.done && decide (i = 1) || s.err && decide (i = 2) || s.qvalid && decide (i = 3)
      || s.pvalid && decide (i = 4) || s.yvalid && decide (i = 5) || s.fvalid && decide (i = 6)
      || s.reduced && decide (i = 7)) := by
  simp only [State.statusWord, BitVec.getLsbD_or, getLsbD_bitAt, Nat.reduceLT]

theorem getLsbD_ctrlWord (s : State) (i : Nat) :
    s.ctrlWord.getLsbD i = (s.stuff && decide (i = 0) || s.irqEn && decide (i = 1)) := by
  simp only [State.ctrlWord, BitVec.getLsbD_or, getLsbD_bitAt, Nat.reduceLT]

theorem memRead_ctrl (s : State) : s.memRead 0x0004 = s.ctrlWord := memRead_hostCsr (r := .ctrl) (by decide) rfl

theorem memRead_status_busy (s : State) : (s.memRead 0x000C).getLsbD 0 = s.busy := by
  rw [getLsbD_memRead_status s rfl (by decide), getLsbD_statusWord]; simp

theorem memRead_status_done (s : State) : (s.memRead 0x000C).getLsbD 1 = s.done := by
  rw [getLsbD_memRead_status s rfl (by decide), getLsbD_statusWord]; simp

theorem memRead_status_err (s : State) : (s.memRead 0x000C).getLsbD 2 = s.err := by
  rw [getLsbD_memRead_status s rfl (by decide), getLsbD_statusWord]; simp

theorem memRead_status_reserved (s : State) {i : Nat} (hi : 8 ≤ i) : (s.memRead 0x000C).getLsbD i = false := by
  have hne (j : Nat) (hj : j < 8) : ¬i = j := by omega
  rw [getLsbD_memRead_status s rfl (.inr hi), getLsbD_statusWord]
  simp [hne]

theorem memRead_ctrl_stuff (s : State) : (s.memRead 0x0004).getLsbD 0 = s.stuff := by
  rw [memRead_ctrl, getLsbD_ctrlWord]; simp

theorem memRead_ctrl_irqEn (s : State) : (s.memRead 0x0004).getLsbD 1 = s.irqEn := by
  rw [memRead_ctrl, getLsbD_ctrlWord]; simp

theorem memRead_ctrl_reserved (s : State) {i : Nat} (hi : 2 ≤ i) : (s.memRead 0x0004).getLsbD i = false := by
  have hne (j : Nat) (hj : j < 2) : ¬i = j := by omega
  rw [memRead_ctrl, getLsbD_ctrlWord]
  simp [hne]

/-- Settles O20: the three bits `irq` is made of are in no command's write set. -/
theorem irqFollowsWhatTheHostReads : Obligations.IrqFollowsWhatTheHostReads := by
  refine ⟨fun s t _ => ?_, rfl⟩
  rw [memRead_ctrl_irqEn, memRead_status_done, memRead_status_err, State.irq]

/-- Settles O23: no command writes ID or CMD, and a reserved word is no register. -/
theorem fixedWordsReadTheirConstants : Obligations.FixedWordsReadTheirConstants := fun _ _ =>
  ⟨memRead_hostCsr (r := .id) (by decide), memRead_hostCsr (r := .cmd) (by decide), memRead_reserved⟩

/-- Settles O24: first what is in no command's write set, then an idle block, which has no write set. -/
theorem statusReadsExactlyWhereItMust : Obligations.StatusReadsExactlyWhereItMust := by
  intro s
  have host {a : Addr} (r : Csr) (hr : r ∈ hostCsrs) (ha : targetOf a = .csr r) : s.memRead a = s.csrWord r :=
    memRead_hostCsr hr ha
  refine ⟨memRead_status_busy s, memRead_status_done s, memRead_status_err s, fun i => memRead_status_reserved s, ?_,
    host .id (by decide) rfl, host .cmd (by decide) rfl, host .frameCmd (by decide) rfl, memRead_ctrl_stuff s,
    memRead_ctrl_irqEn s, fun i => memRead_ctrl_reserved s, fun hi => ?_⟩
  · rw [host .errCode (by decide) rfl]
    exact BitVec.toNat_setWidth_of_le (by decide)
  · have idle {a : Addr} (r : Csr) (ha : targetOf a = .csr r) : s.memRead a = s.csrWord r := memRead_csr_idle hi ha
    have status (i : Nat) : (s.memRead 0x000C).getLsbD i = s.statusWord.getLsbD i := by rw [idle .status rfl]; rfl
    refine ⟨fun r a => idle r, ?_, ?_, ?_, ?_, ?_, idle .payloadLen rfl, idle .palCount rfl, idle .bitWidth rfl,
      idle .packLen rfl, idle .innerLen rfl, idle .checksum rfl, idle .outLen rfl⟩
    all_goals rw [status, getLsbD_statusWord]; simp

/-- A field of the low `n` bits reads back as the written word with its other bits 0. -/
theorem setWidth_extractLsb'_zero (v : Word) {n : Nat} (hn : n ≤ 32) :
    (v.extractLsb' 0 n).setWidth 32 = v &&& BitVec.ofNat 32 (2 ^ n - 1) := by
  have hle : 2 ^ n ≤ 2 ^ 32 := Nat.pow_le_pow_right (by decide) hn
  have hpos : 0 < 2 ^ n := Nat.two_pow_pos n
  apply BitVec.eq_of_toNat_eq
  rw [BitVec.toNat_setWidth, BitVec.extractLsb'_toNat, BitVec.toNat_and, BitVec.toNat_ofNat, Nat.shiftRight_zero,
    Nat.mod_eq_of_lt ((Nat.mod_lt _ hpos).trans_le hle), Nat.mod_eq_of_lt (by omega : 2 ^ n - 1 < 2 ^ 32),
    Nat.and_two_pow_sub_one_eq_mod]

theorem ctrlWord_writeCtrl (s : State) (v : Word) : (s.writeCtrl v).ctrlWord = v &&& 0x3 := by
  apply BitVec.eq_of_getLsbD_eq
  intro i _
  rw [getLsbD_ctrlWord, writeCtrl_stuff, writeCtrl_irqEn, BitVec.getLsbD_and]
  by_cases h2 : i < 2
  · interval_cases i <;> simp
  · have hbit : (0x3 : Word).getLsbD i = false :=
      Nat.testBit_lt_two_pow ((by decide : 3 < 2 ^ 2).trans_le (Nat.pow_le_pow_right (by decide) (by omega)))
    rw [hbit, decide_eq_false (by omega : ¬i = 0), decide_eq_false (by omega : ¬i = 1)]
    simp

theorem memRead_writeCtrl {s : State} {a : Addr} (hi : s.seq = .idle) (ha : targetOf a = .csr .ctrl) (v : Word) :
    (s.writeCtrl v).memRead a = v &&& 0x3 :=
  (memRead_csr_idle (s := s.writeCtrl v) hi ha).trans (ctrlWord_writeCtrl s v)

theorem memRead_writeFrameCmd {s : State} {a : Addr} (hi : s.seq = .idle) (ha : targetOf a = .csr .frameCmd)
    (v : Word) : (s.writeFrameCmd v).memRead a = v &&& 0xFF :=
  (memRead_csr_idle (s := s.writeFrameCmd v) hi ha).trans (setWidth_extractLsb'_zero v (n := 8) (by decide))

theorem memRead_writePayloadLen {s : State} {a : Addr} (hi : s.seq = .idle) (ha : targetOf a = .csr .payloadLen)
    (v : Word) : (s.writePayloadLen v).memRead a = v &&& 0xFFFF :=
  (memRead_csr_idle (s := s.writePayloadLen v) hi ha).trans (setWidth_extractLsb'_zero v (n := 16) (by decide))

/-- Settles O27: each of the three writes is its own update of an idle block, which then reads the field back. -/
theorem configurationWritesStoreTheirFields : Obligations.ConfigurationWritesStoreTheirFields := by
  intro s rest a v hi ht
  refine ⟨fun ha => ?_, fun ha => ?_, fun ha => ?_⟩
  · have hstep := step_write_idle (write := State.writeCtrl v) hi ht ha (by decide) fun _ => rfl
    exact ⟨_, hstep, rfl, memRead_writeCtrl (s := { s with turns := rest }) hi ha v⟩
  · have hstep := step_write_idle (write := State.writeFrameCmd v) hi ht ha (by decide) fun _ => rfl
    exact ⟨_, hstep, rfl, memRead_writeFrameCmd (s := { s with turns := rest }) hi ha v⟩
  · have hstep := step_write_idle (write := State.writePayloadLen v) hi ht ha (by decide) fun _ => rfl
    exact ⟨_, hstep, rfl, memRead_writePayloadLen (s := { s with turns := rest }) hi ha v⟩

end Sys2Proof.Machine
end

section
/-! PROOFS. What raises and what clears DONE, QVALID and FVALID (10_state.md R32, R34, R37). -/

namespace Sys2Proof.Machine

section
variable {s t : State} {x : Turn}

/-! ### Which turns raise and clear the flags -/

/-- The turn was a tick that completed the running command, with `t` the state it left. -/
def IsCompletion (s : State) (x : Turn) (snap : Snapshot) (t : State) : Prop :=
  x = .tick ∧ (∃ k ≤ 1, s.seq = .run snap k) ∧ t = complete snap s

/-- A SOFT_RESET of an idle block. -/
def IsSoftReset (s : State) (x : Turn) : Prop :=
  s.seq = .idle ∧ ∃ a, x = .write a 0x0000000F ∧ targetOf a = .csr .cmd

/-- Only a completion raises DONE, QVALID or FVALID. -/
theorem completion_or_no_rise (c : TurnChange s x t) :
    (∃ snap, IsCompletion s x snap t)
    ∨ ((t.done = true → s.done = true) ∧ (t.qvalid = true → s.qvalid = true)
      ∧ (t.fvalid = true → s.fvalid = true)) := by
  cases c with
  | tick =>
    rcases tick_cases s with e | ⟨snap, k, _, _, e⟩ | ⟨snap, k, hq, hk, e⟩
    · rw [e]; exact .inr ⟨id, id, id⟩
    · rw [e]; exact .inr ⟨id, id, id⟩
    · exact .inl ⟨snap, rfl, ⟨k, hk, hq⟩, e⟩
  | status => exact .inr ⟨fun h => (Bool.and_eq_true_iff.1 h).1, id, id⟩
  | reset | softReset => exact .inr ⟨nofun, nofun, nofun⟩
  | pixel => exact .inr ⟨id, nofun, id⟩
  | read | ignored | error | ctrl | frameCmd | payloadLen | payload | accept => exact .inr ⟨id, id, id⟩

theorem complete_raises_qvalid {snap : Snapshot} (hs : s.qvalid = false) (ht : (complete snap s).qvalid = true) :
    (∃ px, snap = .quantize px) ∨ ∃ px b, snap = .encode px b := by
  cases snap with
  | quantize px => exact .inl ⟨px, rfl⟩
  | encode px b => exact .inr ⟨px, b, rfl⟩
  | nop | pack | buildPayload | frame => exact absurd (hs.symm.trans ht) (by decide)

theorem complete_raises_fvalid {snap : Snapshot} (hs : s.fvalid = false) (ht : (complete snap s).fvalid = true) :
    (∃ c m y b, snap = .frame c m y b) ∨ ∃ px b, snap = .encode px b := by
  cases snap with
  | frame c m y b => exact .inl ⟨c, m, y, b, rfl⟩
  | encode px b => exact .inr ⟨px, b, rfl⟩
  | nop | quantize | pack | buildPayload => exact absurd (hs.symm.trans ht) (by decide)

/-- No tick clears DONE, QVALID or FVALID. -/
theorem tick_keeps_flags (s : State) :
    (s.done = true → (tick s).done = true) ∧ (s.qvalid = true → (tick s).qvalid = true)
      ∧ (s.fvalid = true → (tick s).fvalid = true) := by
  rcases tick_cases s with e | ⟨snap, k, _, _, e⟩ | ⟨snap, k, _, _, e⟩
  · rw [e]; exact ⟨id, id, id⟩
  · rw [e]; exact ⟨id, id, id⟩
  · rw [e]
    cases snap with
    | nop | pack | buildPayload => exact ⟨fun _ => rfl, id, id⟩
    | quantize => exact ⟨fun _ => rfl, fun _ => rfl, id⟩
    | frame => exact ⟨fun _ => rfl, id, fun _ => rfl⟩
    | encode => exact ⟨fun _ => rfl, fun _ => rfl, fun _ => rfl⟩

/-- A turn that is no reset clears DONE only as a write to STATUS, QVALID only as an accepted pixel write, and
FVALID not at all. -/
theorem reset_or_no_fall (c : TurnChange s x t) :
    x = .reset ∨ IsSoftReset s x
    ∨ ((s.done = true → t.done = true ∨ ∃ a v, x = .write a v ∧ targetOf a = .csr .status ∧ v.getLsbD 1 = true)
      ∧ (s.qvalid = true → t.qvalid = true ∨ s.seq = .idle ∧ ∃ a v p, x = .write a v ∧ targetOf a = .pixel p)
      ∧ (s.fvalid = true → t.fvalid = true)) := by
  cases c with
  | tick =>
    obtain ⟨hd, hq, hf⟩ := tick_keeps_flags s
    exact .inr (.inr ⟨fun h => .inl (hd h), fun h => .inl (hq h), hf⟩)
  | reset => exact .inl rfl
  | softReset a hi ha => exact .inr (.inl ⟨hi, a, rfl, ha⟩)
  | status a v ha =>
    refine .inr (.inr ⟨fun h => ?_, .inl, id⟩)
    cases hv : v.getLsbD 1 with
    | true => exact .inr ⟨a, v, rfl, ha, hv⟩
    | false => exact .inl (by rw [writeStatus_done, h, hv]; rfl)
  | pixel a v p hi ha => exact .inr (.inr ⟨.inl, fun _ => .inr ⟨hi, a, v, p, rfl, ha⟩, id⟩)
  | read | ignored | error | ctrl | frameCmd | payloadLen | payload | accept => exact .inr (.inr ⟨.inl, .inl, id⟩)

end

/-- Settles O55, by what raises and what clears a flag, at the turn the step takes. -/
theorem qvalidChangesOnlyByItsCauses : Obligations.QvalidChangesOnlyByItsCauses := by
  intro s t hstep
  obtain ⟨x, rest, hx, c⟩ := step_turnChange hstep
  refine ⟨fun hs ht => ?_, fun hs ht => ?_⟩
  · rcases completion_or_no_rise c with ⟨snap, rfl, ⟨k, hk, hq⟩, rfl⟩ | ⟨_, hrise, _⟩
    · refine ⟨hx.tick, busy_complete snap _, complete_done snap _, k, hk, ?_⟩
      rcases complete_raises_qvalid (s := { s with turns := rest }) hs ht with ⟨px, rfl⟩ | ⟨px, b, rfl⟩
      · exact .inl ⟨px, hq⟩
      · exact .inr ⟨px, b, hq⟩
    · exact absurd (hs.symm.trans (hrise ht)) (by decide)
  · rcases reset_or_no_fall c with rfl | ⟨hi, a, rfl, ha⟩ | ⟨_, hfall, _⟩
    · exact .inl ⟨rest, hx.turns_eq nofun⟩
    · exact .inr ⟨hi, a, _, rest, hx.turns_eq nofun, .inr ⟨ha, rfl⟩⟩
    · rcases hfall hs with h | ⟨hi, a, v, p, rfl, ha⟩
      · exact absurd (ht.symm.trans h) (by decide)
      · exact .inr ⟨hi, a, v, rest, hx.turns_eq nofun, .inl ⟨p, ha⟩⟩

/-- Settles O56, by what raises and what clears a flag, at the turn the step takes. -/
theorem doneAndFvalidChangeOnlyByTheirCauses : Obligations.DoneAndFvalidChangeOnlyByTheirCauses := by
  intro s t hstep
  obtain ⟨x, rest, hx, c⟩ := step_turnChange hstep
  refine ⟨fun hs ht => ?_, fun hs ht => ?_, fun hs ht => ?_, fun hs ht => ?_⟩
  · rcases completion_or_no_rise c with ⟨snap, rfl, ⟨k, _, hq⟩, rfl⟩ | ⟨hrise, _, _⟩
    · exact ⟨busy_of_run s hq, busy_complete snap _, hx.tick⟩
    · exact absurd (hs.symm.trans (hrise ht)) (by decide)
  · rcases completion_or_no_rise c with ⟨snap, rfl, ⟨k, hk, hq⟩, rfl⟩ | ⟨_, _, hrise⟩
    · refine ⟨hx.tick, busy_complete snap _, complete_done snap _, k, hk, ?_⟩
      rcases complete_raises_fvalid (s := { s with turns := rest }) hs ht with ⟨cmd, m, y, b, rfl⟩ | ⟨px, b, rfl⟩
      · exact .inl ⟨cmd, m, y, b, hq⟩
      · exact .inr ⟨px, b, hq⟩
    · exact absurd (hs.symm.trans (hrise ht)) (by decide)
  · rcases reset_or_no_fall c with rfl | ⟨hi, a, rfl, ha⟩ | ⟨hfall, _, _⟩
    · exact .inl ⟨rest, hx.turns_eq nofun⟩
    · exact .inr (.inr ⟨hi, a, rest, hx.turns_eq nofun, ha⟩)
    · rcases hfall hs with h | ⟨a, v, rfl, ha, hv⟩
      · exact absurd (ht.symm.trans h) (by decide)
      · exact .inr (.inl ⟨a, v, rest, hx.turns_eq nofun, ha, hv⟩)
  · rcases reset_or_no_fall c with rfl | ⟨hi, a, rfl, ha⟩ | ⟨_, _, hfall⟩
    · exact .inl ⟨rest, hx.turns_eq nofun⟩
    · exact .inr ⟨hi, a, rest, hx.turns_eq nofun, ha⟩
    · exact absurd (ht.symm.trans (hfall hs)) (by decide)

end Sys2Proof.Machine
end

section
/-! SUPPORT. How large the results of the commands can be: palette, indices, packed bytes, payload and frame. -/

namespace Sys2Proof.Machine

/-! ### The quantizer -/

/-- What holds of a scan after the colours `g` (40_quantizer.md R111). -/
structure Scanned (g : List Colour) (st : List Colour × List Nat) : Prop where
  nodup : st.1.Nodup
  seen : ∀ c ∈ st.1, c ∈ g
  length_indices : st.2.length = g.length
  index_lt : ∀ i ∈ st.2, i < st.1.length

theorem Scanned.step {g : List Colour} {st : List Colour × List Nat} (h : Scanned g st) (c : Colour) :
    Scanned (g ++ [c]) (scanStep st c) := by
  obtain ⟨nodup, seen, length_indices, index_lt⟩ := h
  unfold scanStep
  split
  case isTrue hc =>
    refine ⟨nodup, fun d hd => List.mem_append_left _ (seen d hd), by simp [length_indices], fun i hi => ?_⟩
    rcases List.mem_append.1 hi with hi | hi
    · exact index_lt i hi
    · rw [List.mem_singleton.1 hi]
      exact List.idxOf_lt_length_of_mem hc
  case isFalse hc =>
    refine ⟨List.nodup_append_comm.1 (nodup.cons hc), fun d hd => ?_, by simp [length_indices], fun i hi => ?_⟩
    · rcases List.mem_append.1 hd with hd | hd
      · exact List.mem_append_left _ (seen d hd)
      · exact List.mem_append_right _ hd
    · rw [List.length_append, List.length_singleton]
      rcases List.mem_append.1 hi with hi | hi
      · exact Nat.lt_succ_of_lt (index_lt i hi)
      · rw [List.mem_singleton.1 hi]; exact Nat.lt_succ_self _

theorem scan_scanned (g : List Colour) : Scanned g (scan g) := by
  induction g using List.reverseRecOn with
  | nil => exact ⟨List.nodup_nil, by simp [scan], rfl, by simp [scan]⟩
  | append_singleton g c ih =>
    have e : scan (g ++ [c]) = scanStep (scan g) c := by simp [scan]
    rw [e]
    exact ih.step c

/-- The colour whose three top red bits, three top green bits and two top blue bits are the bits of `k`. -/
def spreadBits (k : Byte) : Colour :=
  k.extractLsb' 5 3 ++ (0 : BitVec 5) ++ (k.extractLsb' 2 3 ++ (0 : BitVec 5)) ++ (k.extractLsb' 0 2 ++ (0 : BitVec 6))

/-- A reduced colour has eight free bits (40_quantizer.md R112). -/
theorem reduce_eq_spreadBits (c : Colour) :
    reduce c = spreadBits (c.extractLsb' 21 3 ++ (c.extractLsb' 13 3 ++ c.extractLsb' 6 2)) := by
  apply BitVec.eq_of_getLsbD_eq
  intro i hi
  simp only [reduce, spreadBits, Config.reduceMask, BitVec.getLsbD_append, BitVec.getLsbD_extractLsb',
    BitVec.getLsbD_and]
  interval_cases i <;> simp

/-- Every value that `reduce` takes. -/
def reducedColours : List Colour := (List.range 256).map (fun k => spreadBits (BitVec.ofNat 8 k))

theorem reduce_mem_reducedColours (c : Colour) : reduce c ∈ reducedColours := by
  rw [reduce_eq_spreadBits]
  generalize (c.extractLsb' 21 3 ++ (c.extractLsb' 13 3 ++ c.extractLsb' 6 2) : Byte) = k
  exact List.mem_map.2 ⟨k.toNat, List.mem_range.2 k.isLt, by rw [BitVec.ofNat_toNat, BitVec.setWidth_eq]⟩

theorem length_scan_reduced_le (g : List Colour) : (scan (g.map reduce)).1.length ≤ 256 := by
  have h := scan_scanned (g.map reduce)
  have hsub : (scan (g.map reduce)).1 ⊆ reducedColours := fun c hc => by
    obtain ⟨d, _, rfl⟩ := List.mem_map.1 (h.seen c hc)
    exact reduce_mem_reducedColours d
  have hle := (h.nodup.subperm hsub).length_le
  rwa [reducedColours, List.length_map, List.length_range] at hle

theorem length_palette_quantizeGrid_le (g : List Colour) : (quantizeGrid g).palette.length ≤ 256 := by
  unfold quantizeGrid
  split
  · exact length_scan_reduced_le g
  · next h => exact not_lt.1 h

theorem length_indices_quantizeGrid (g : List Colour) : (quantizeGrid g).indices.length = g.length := by
  unfold quantizeGrid
  split
  · exact (scan_scanned _).length_indices.trans (List.length_map _)
  · exact (scan_scanned g).length_indices

theorem index_lt_quantizeGrid (g : List Colour) :
    ∀ i ∈ (quantizeGrid g).indices, i < (quantizeGrid g).palette.length := by
  unfold quantizeGrid
  split
  · exact (scan_scanned _).index_lt
  · exact (scan_scanned g).index_lt

/-! ### The packer -/

theorem bitWidthFrom_le (fuel w m n : Nat) (hw : w ≤ m) (hn : n ≤ 2 ^ m) : bitWidthFrom fuel w n ≤ m := by
  induction fuel generalizing w with
  | zero => exact hw
  | succ fuel ih =>
    unfold bitWidthFrom
    split
    · exact hw
    · next h => exact ih (w + 1) (Nat.lt_of_le_of_ne hw fun e => h (e ▸ hn))

theorem bitWidthOf_le (n : Nat) (h : n ≤ 256) : bitWidthOf n ≤ 8 := bitWidthFrom_le n 1 8 n (by decide) h

theorem length_emitBytes (count acc : Nat) : (emitBytes count acc).length = count := by
  induction count generalizing acc with
  | zero => rfl
  | succ count ih => rw [emitBytes, List.length_cons, ih]

/-- From an accumulator that holds less than a byte: the ceiling of all bits over 8 (41_packer.md R135). -/
theorem length_packGo (w : Nat) (is : List Nat) (acc cnt : Nat) (h : cnt < 8) :
    (packGo w is acc cnt).length = (cnt + w * is.length + 7) / 8 := by
  induction is generalizing acc cnt with
  | nil =>
    unfold packGo
    split
    · simp only [List.length_cons, List.length_nil, Nat.mul_zero]; omega
    · simp only [List.length_nil, Nat.mul_zero]; omega
  | cons i is ih =>
    rw [packGo, List.length_append, length_emitBytes, ih _ _ (Nat.mod_lt _ (by decide)), List.length_cons,
      Nat.mul_succ]
    omega

theorem length_packIndices (is : List Nat) (w : Nat) : (packIndices is w).length = (w * is.length + 7) / 8 := by
  rw [packIndices, length_packGo w is 0 0 (by decide), Nat.zero_add]

/-! ### The framer -/

theorem length_paletteBytes (p : List Colour) : (paletteBytes p).length = 3 * p.length := by
  induction p with
  | nil => rfl
  | cons c p ih =>
    have e : paletteBytes (c :: p) = red c :: green c :: blue c :: paletteBytes p := by simp [paletteBytes]
    simp only [e, List.length_cons, ih]
    omega

theorem length_imagePayload (p : List Colour) (b : List Byte) :
    (imagePayload p b).length = 12 + 3 * p.length + b.length := by
  simp only [imagePayload, List.length_append, length_paletteBytes, subHeader, le16, List.length_cons, List.length_nil]
  omega

theorem length_stuffByte_le (b : Byte) : (stuffByte b).length ≤ 2 := by
  unfold stuffByte
  split_ifs <;> simp

theorem length_stuffBytes_le (x : List Byte) : (stuffBytes x).length ≤ 2 * x.length := by
  induction x with
  | nil => simp [stuffBytes]
  | cons b x ih =>
    have hb := length_stuffByte_le b
    have e : stuffBytes (b :: x) = stuffByte b ++ stuffBytes x := by simp [stuffBytes]
    rw [e, List.length_append, List.length_cons]; omega

theorem length_innerBuffer (cmd : Byte) (y : List Byte) : (innerBuffer cmd y).length = y.length + 5 := by
  simp [innerBuffer, checkedBytes, le16]

theorem length_frameBytes_le (cmd : Byte) (y : List Byte) (stuff : Bool) :
    (frameBytes cmd y stuff).length ≤ 2 * y.length + 12 := by
  have hinner := length_innerBuffer cmd y
  have hstuff := length_stuffBytes_le (innerBuffer cmd y)
  rw [frameBytes, List.length_cons, List.length_append, List.length_singleton, frameBody]
  split <;> omega

/-! ### A quantization fits its memories -/

/-- What makes a quantization fit its memories. -/
structure Quantized.Fits (q : Quantized) : Prop where
  palette_le : q.palette.length ≤ 256
  length_indices : q.indices.length = 1024
  index_lt : ∀ i ∈ q.indices, i < 256

theorem fits_quantizeGrid {g : List Colour} (hg : g.length = 1024) : (quantizeGrid g).Fits where
  palette_le := length_palette_quantizeGrid_le g
  length_indices := (length_indices_quantizeGrid g).trans hg
  index_lt i hi := (index_lt_quantizeGrid g i hi).trans_le (length_palette_quantizeGrid_le g)

namespace Quantized.Fits

variable {q : Quantized}

theorem bitWidth_le (hf : q.Fits) : bitWidthOf q.palette.length ≤ 8 := bitWidthOf_le _ hf.palette_le

theorem length_indexBytes (hf : q.Fits) : (indexBytes q.indices).length = 1024 :=
  (List.length_map _).trans hf.length_indices

theorem length_encodePacked_le (hf : q.Fits) : (encodePacked q).length ≤ 1024 := by
  have hw := hf.bitWidth_le
  rw [encodePacked, length_packIndices, hf.length_indices]
  omega

theorem length_encodePayload_le (hf : q.Fits) : (encodePayload q).length ≤ 2048 := by
  have hp := hf.palette_le
  have hb := hf.length_encodePacked_le
  rw [encodePayload, length_imagePayload]
  omega

/-- The bytes of INDEX_MEM hold the whole indices. -/
theorem toNat_indexBytes (hf : q.Fits) : (indexBytes q.indices).map BitVec.toNat = q.indices := by
  rw [indexBytes, List.map_map]
  refine (List.map_congr_left (g := id) fun i hi => ?_).trans (List.map_id _)
  exact (BitVec.toNat_ofNat i 8).trans (Nat.mod_eq_of_lt (hf.index_lt i hi))

/-- PACK of the entries that a quantization left packs its indices (41_packer.md R138). -/
theorem packBytes_eq (hf : q.Fits) {n : BitVec 9} (hn : n.toNat = q.palette.length) :
    packBytes (indexBytes q.indices) n = encodePacked q := by
  rw [packBytes, hf.toNat_indexBytes, hn, encodePacked]

end Quantized.Fits

theorem fits_samplePixels (s : State) : (quantizeGrid s.samplePixels).Fits :=
  fits_quantizeGrid (length_samplePixels s)

end Sys2Proof.Machine
end

section
/-! PROOFS. Which ranges of the window each write leaves alone, and what can change PIXEL_MEM (10_state.md R49). -/

namespace Sys2Proof.Machine

/-- Two memories agree on a range. -/
def Memory.SameOn (m n : Memory) (lo hi : Nat) : Prop := ∀ a, lo ≤ a → a < hi → n.read a = m.read a

namespace Memory

theorem SameOn.refl (m : Memory) (lo hi : Nat) : m.SameOn m lo hi := fun _ _ _ => rfl

theorem SameOn.trans {m n o : Memory} {lo hi : Nat} (h : m.SameOn n lo hi) (h' : n.SameOn o lo hi) :
    m.SameOn o lo hi := fun a h1 h2 => (h' a h1 h2).trans (h a h1 h2)

theorem SameOutside.sameOn {m n : Memory} {lo hi lo' hi' : Nat} (h : m.SameOutside n lo hi)
    (hd : hi' ≤ lo ∨ hi ≤ lo') : m.SameOn n lo' hi' := fun a _ _ => h a (by omega)

theorem sameOn_storeBytes (m : Memory) {base size : Nat} (bs : List Byte) {lo hi : Nat}
    (hd : hi ≤ base ∨ base + size ≤ lo) : m.SameOn (m.storeBytes base size bs) lo hi :=
  SameOutside.sameOn (same_storeBytes_size m base size bs) hd

/-- The stores of a quantization leave every range beside PALETTE_MEM and INDEX_MEM. -/
theorem sameOn_storeImage (m : Memory) (p : List Colour) (i : List Byte) {lo hi : Nat}
    (hp : hi ≤ paletteBase ∨ paletteBase + 1024 ≤ lo) (hi' : hi ≤ indexBase ∨ indexBase + 4096 ≤ lo) :
    m.SameOn ((m.storePalette p).storeIndices i) lo hi :=
  (SameOutside.sameOn (same_storePalette m p) hp).trans (SameOutside.sameOn (same_storeIndices _ i) hi')

theorem HoldsBytes.congr {m n : Memory} {base size : Nat} {bs : List Byte} (h : m.HoldsBytes base bs)
    (same : m.SameOn n base (base + size)) (hl : bs.length ≤ size) : n.HoldsBytes base bs :=
  fun b hb => (same _ (by omega) (by omega)).trans (h b hb)

theorem HoldsEntries.congr {m n : Memory} {base size : Nat} {bs : List Byte} (h : m.HoldsEntries base bs)
    (same : m.SameOn n base (base + 4 * size)) (hl : bs.length ≤ size) : n.HoldsEntries base bs :=
  fun b hb => (same _ (by omega) (by omega)).trans (h b hb)

theorem HoldsColours.congr {m n : Memory} {base size : Nat} {cs : List Colour} (h : m.HoldsColours base cs)
    (same : m.SameOn n base (base + 4 * size)) (hl : cs.length ≤ size) : n.HoldsColours base cs :=
  fun i hi => (colour?_congr fun j _ => same _ (by omega) (by omega)).trans (h i hi)

end Memory

theorem sameOn_writePixel (s : State) {p : Nat} (v : Word) (hp : p < 1024) {lo hi : Nat}
    (hd : hi ≤ 0x1000 ∨ 0x2000 ≤ lo) : s.mem.SameOn (s.writePixel p v).mem lo hi := fun a _ _ => by
  rw [read_writePixel, if_neg (by simp only [pixelBase]; omega)]

theorem sameOn_writePayload (s : State) {k : Nat} (v : Word) (hk : k < 512) {lo hi : Nat}
    (hd : hi ≤ 0x2000 ∨ 0x2800 ≤ lo) : s.mem.SameOn (s.writePayload k v).mem lo hi := fun a _ _ => by
  rw [read_writePayload, if_neg (by simp only [payloadBase]; omega)]

/-! ### What each command's writes leave -/

section
variable (s : State) {lo hi : Nat}

theorem sameOn_applyQuantized (q : Quantized) (hp : hi ≤ paletteBase ∨ paletteBase + 1024 ≤ lo)
    (hi' : hi ≤ indexBase ∨ indexBase + 4096 ≤ lo) : s.mem.SameOn (applyQuantized q s).mem lo hi :=
  Memory.sameOn_storeImage s.mem q.palette (indexBytes q.indices) hp hi'

theorem sameOn_applyPacked (w : Nat) (b : List Byte) (hd : hi ≤ packBase ∨ packBase + packSize ≤ lo) :
    s.mem.SameOn (applyPacked w b s).mem lo hi := Memory.sameOn_storeBytes s.mem b hd

theorem sameOn_applyPayload (y : List Byte) (hd : hi ≤ payloadBase ∨ payloadBase + payloadSize ≤ lo) :
    s.mem.SameOn (applyPayload y s).mem lo hi := Memory.sameOn_storeBytes s.mem y hd

theorem sameOn_applyFrame (cmd : Byte) (y : List Byte) (stuff : Bool)
    (hd : hi ≤ outBase ∨ outBase + outSize ≤ lo) : s.mem.SameOn (applyFrame cmd y stuff s).mem lo hi :=
  Memory.sameOn_storeBytes s.mem (frameBytes cmd y stuff) hd

end

/-! ### PIXEL_MEM -/

/-- No command writes PIXEL_MEM (40_quantizer.md R118). -/
theorem sameOn_complete_pixels (snap : Snapshot) (s : State) : s.mem.SameOn (complete snap s).mem 0x1000 0x2000 := by
  cases snap with
  | nop => exact Memory.SameOn.refl _ _ _
  | quantize px => exact sameOn_applyQuantized s _ (by decide) (by decide)
  | pack indices palCount qvalid =>
    exact sameOn_applyPacked s (bitWidthOf palCount.toNat) (packBytes indices palCount) (by decide)
  | buildPayload palette palCount packed packLen qvalid pvalid => exact sameOn_applyPayload s _ (by decide)
  | frame cmd payloadLen payload stuff => exact sameOn_applyFrame s _ _ _ (by decide)
  | encode px stuff =>
    have hq := sameOn_applyQuantized s (quantizeGrid px) (lo := 0x1000) (hi := 0x2000) (by decide) (by decide)
    exact ((hq.trans (sameOn_applyPacked _ _ _ (by decide))).trans (sameOn_applyPayload _ _ (by decide))).trans
      (sameOn_applyFrame _ _ _ _ (by decide))

theorem sameOn_tick_pixels (s : State) : s.mem.SameOn (tick s).mem 0x1000 0x2000 := by
  rcases tick_cases s with e | ⟨snap, k, _, _, e⟩ | ⟨snap, k, _, _, e⟩
  · rw [e]; exact Memory.SameOn.refl _ _ _
  · rw [e]; exact Memory.SameOn.refl _ _ _
  · rw [e]; exact sameOn_complete_pixels snap s

/-- A turn leaves a byte of PIXEL_MEM, or it is a hardware reset or an accepted write to the byte's entry. -/
theorem pixel_read_of_turnChange {s t : State} {x : Turn} {a : Nat} (c : TurnChange s x t) (h1 : 0x1000 ≤ a)
    (h2 : a < 0x2000) : t.mem.read a = s.mem.read a ∨ x = .reset
      ∨ (s.seq = .idle ∧ ∃ b v, x = .write b v ∧ targetOf b = .pixel ((a - 0x1000) / 4)) := by
  cases c with
  | tick => exact .inl (sameOn_tick_pixels s a h1 h2)
  | reset => exact .inr (.inl rfl)
  | pixel b v p hi ha =>
    by_cases hp : 0x1000 + 4 * p ≤ a ∧ a < 0x1000 + 4 * p + 4
    · have hp' : (a - 0x1000) / 4 = p := by omega
      exact .inr (.inr ⟨hi, b, v, rfl, hp'.symm ▸ ha⟩)
    · exact .inl (by rw [read_writePixel, if_neg hp])
  | payload b v k hi ha => exact .inl (sameOn_writePayload s v (payload_lt ha) (by decide) a h1 h2)
  | read | ignored | error | status | ctrl | frameCmd | payloadLen | accept | softReset => exact .inl rfl

/-- Settles O57: the one host write that reaches PIXEL_MEM is the one whose target is the byte's own entry. -/
theorem pixelMemChangesOnlyByTheHost : Obligations.PixelMemChangesOnlyByTheHost := by
  intro s t a hstep h1 h2 hne
  obtain ⟨x, rest, hx, c⟩ := step_turnChange hstep
  rcases pixel_read_of_turnChange c h1 h2 with h | rfl | ⟨hi, b, v, rfl, hb⟩
  · exact absurd h hne
  · exact .inl ⟨rest, hx.turns_eq nofun⟩
  · exact .inr ⟨hi, b, v, rest, hx.turns_eq nofun, hb⟩

end Sys2Proof.Machine
end

section
/-! PROOFS. Over every step the valid flags go on naming results of the image now in PIXEL_MEM (10_state.md R34 to R37,
20_memory.md R81 to R83). The invariant is split in two: the running command's snapshot (`State.SnapshotHolds`) and the
flags with their results (`State.ResultsInv`); each operation of the block keeps them by a lemma of its own. -/

namespace Sys2Proof.Machine

/-! ### Results and samples where memory agrees -/

/-- `pixels_congr` over the range of PIXEL_MEM. -/
theorem samplePixels_congr {s t : State} (hw : s.PixelsWritten) (h : s.mem.SameOn t.mem 0x1000 0x2000) :
    t.PixelsWritten ∧ t.samplePixels = s.samplePixels := pixels_congr hw h

theorem samplePayload_congr {s t : State} (hw : s.PayloadWritten) (hl : t.payloadLen = s.payloadLen)
    (h : t.mem = s.mem) : t.PayloadWritten ∧ t.samplePayload = s.samplePayload := by
  refine ⟨fun b hb => by rw [h]; exact hw b (hl ▸ hb), ?_⟩
  rw [State.samplePayload, State.samplePayload, hl]
  exact List.map_congr_left fun b hb => byteAt_congr (by rw [h]) (hw b (List.mem_range.1 hb))

theorem holdsQuantized_congr {s t : State} (h : s.HoldsQuantized) (hpix : s.mem.SameOn t.mem 0x1000 0x2000)
    (hpal : s.mem.SameOn t.mem 0x3000 0x3400) (hidx : s.mem.SameOn t.mem 0x4000 0x5000)
    (hcount : t.palCount = s.palCount) (hred : t.reduced = s.reduced) : t.HoldsQuantized := by
  obtain ⟨hw, hn, hr, hp, hi⟩ := h
  obtain ⟨hw', hs⟩ := samplePixels_congr hw hpix
  have hf := fits_samplePixels s
  unfold State.HoldsQuantized
  rw [hs, hcount, hred]
  exact ⟨hw', hn, hr, hp.congr (size := 256) hpal hf.palette_le,
    hi.congr (size := 1024) hidx hf.length_indexBytes.le⟩

theorem holdsPacked_congr {s t : State} (hw : s.PixelsWritten) (h : s.HoldsPacked)
    (hpix : s.mem.SameOn t.mem 0x1000 0x2000) (hpack : s.mem.SameOn t.mem 0x3400 0x3800)
    (hwidth : t.bitWidth = s.bitWidth) (hlen : t.packLen = s.packLen) : t.HoldsPacked := by
  obtain ⟨hbw, hl, hb⟩ := h
  unfold State.HoldsPacked
  rw [(samplePixels_congr hw hpix).2, hwidth, hlen]
  exact ⟨hbw, hl, hb.congr (size := 1024) hpack (fits_samplePixels s).length_encodePacked_le⟩

theorem holdsPayload_congr {s t : State} (hw : s.PixelsWritten) (h : s.HoldsPayload)
    (hpix : s.mem.SameOn t.mem 0x1000 0x2000) (hpay : s.mem.SameOn t.mem 0x2000 0x2800)
    (hlen : t.payloadLen = s.payloadLen) : t.HoldsPayload := by
  obtain ⟨hl, hb⟩ := h
  unfold State.HoldsPayload
  rw [(samplePixels_congr hw hpix).2, hlen]
  exact ⟨hl, hb.congr (size := 2048) hpay (fits_samplePixels s).length_encodePayload_le⟩

theorem holdsFrame_congr {s t : State} {cmd : Byte} {payload : List Byte} {stuff : Bool}
    (h : s.HoldsFrame cmd payload stuff) (hout : s.mem.SameOn t.mem 0x8000 0xA000) (hlen : t.outLen = s.outLen)
    (hinner : t.innerLen = s.innerLen) (hsum : t.checksum = s.checksum) : t.HoldsFrame cmd payload stuff := by
  obtain ⟨hp, hl, hi, hc, hb⟩ := h
  have hle := length_frameBytes_le cmd payload stuff
  unfold State.HoldsFrame
  rw [hlen, hinner, hsum]
  exact ⟨hp, hl, hi, hc, hb.congr (size := 8192) hout (by simp only [Config.payloadMax] at hp; omega)⟩

/-! ### The flags and their results -/

/-- The clauses of `State.ValidInv` about results (`validInv_iff`): every valid flag that is set means what it says. -/
structure State.ResultsInv (s : State) : Prop where
  quantized : s.qvalid = true → s.HoldsQuantized
  packed : s.pvalid = true → s.qvalid = true ∧ s.HoldsPacked
  payload : s.yvalid = true → s.pvalid = true ∧ s.HoldsPayload
  frame : s.fvalid = true → ∃ cmd payload stuff, s.HoldsFrame cmd payload stuff

theorem validInv_iff (s : State) : s.ValidInv ↔ s.SnapshotInv ∧ s.ResultsInv :=
  ⟨fun ⟨hs, hq, hp, hy, hf⟩ => ⟨hs, hq, hp, hy, hf⟩, fun ⟨hs, hq, hp, hy, hf⟩ => ⟨hs, hq, hp, hy, hf⟩⟩

namespace State.ResultsInv

variable {s t : State}

theorem holdsQuantized_of_pvalid (h : s.ResultsInv) (hp : s.pvalid = true) : s.HoldsQuantized :=
  h.quantized (h.packed hp).1

theorem pixelsWritten_of_qvalid (h : s.ResultsInv) (hq : s.qvalid = true) : s.PixelsWritten := (h.quantized hq).1

theorem pixelsWritten_of_pvalid (h : s.ResultsInv) (hp : s.pvalid = true) : s.PixelsWritten :=
  h.pixelsWritten_of_qvalid (h.packed hp).1

/-- A wire frame is kept by whatever leaves OUT_MEM and the registers that describe it. -/
theorem frame_congr (h : s.ResultsInv) (hv : t.fvalid = s.fvalid) (hout : s.mem.SameOn t.mem 0x8000 0xA000)
    (hlen : t.outLen = s.outLen) (hinner : t.innerLen = s.innerLen) (hsum : t.checksum = s.checksum)
    (ht : t.fvalid = true) : ∃ cmd payload stuff, t.HoldsFrame cmd payload stuff := by
  obtain ⟨cmd, payload, stuff, hf⟩ := h.frame (hv ▸ ht)
  exact ⟨cmd, payload, stuff, holdsFrame_congr hf hout hlen hinner hsum⟩

/-- A quantization is kept by whatever leaves the image memories, PAL_COUNT and REDUCED. -/
theorem quantized_congr (h : s.ResultsInv) (hv : t.qvalid = s.qvalid) (hpix : s.mem.SameOn t.mem 0x1000 0x2000)
    (hpal : s.mem.SameOn t.mem 0x3000 0x3400) (hidx : s.mem.SameOn t.mem 0x4000 0x5000)
    (hcount : t.palCount = s.palCount) (hred : t.reduced = s.reduced) (ht : t.qvalid = true) : t.HoldsQuantized :=
  holdsQuantized_congr (h.quantized (hv ▸ ht)) hpix hpal hidx hcount hred

theorem packed_congr (h : s.ResultsInv) (hq : t.qvalid = s.qvalid) (hv : t.pvalid = s.pvalid)
    (hpix : s.mem.SameOn t.mem 0x1000 0x2000) (hpack : s.mem.SameOn t.mem 0x3400 0x3800)
    (hwidth : t.bitWidth = s.bitWidth) (hlen : t.packLen = s.packLen) (ht : t.pvalid = true) :
    t.qvalid = true ∧ t.HoldsPacked := by
  have hs : s.pvalid = true := hv ▸ ht
  obtain ⟨hqs, hps⟩ := h.packed hs
  exact ⟨hq.trans hqs, holdsPacked_congr (h.pixelsWritten_of_pvalid hs) hps hpix hpack hwidth hlen⟩

theorem payload_congr (h : s.ResultsInv) (hp : t.pvalid = s.pvalid) (hv : t.yvalid = s.yvalid)
    (hpix : s.mem.SameOn t.mem 0x1000 0x2000) (hpay : s.mem.SameOn t.mem 0x2000 0x2800)
    (hlen : t.payloadLen = s.payloadLen) (ht : t.yvalid = true) : t.pvalid = true ∧ t.HoldsPayload := by
  obtain ⟨hps, hys⟩ := h.payload (hv ▸ ht)
  exact ⟨hp.trans hps, holdsPayload_congr (h.pixelsWritten_of_pvalid hps) hys hpix hpay hlen⟩

/-- With every valid flag clear there is nothing to show. -/
theorem of_flags_clear (hq : s.qvalid = false) (hp : s.pvalid = false) (hy : s.yvalid = false)
    (hf : s.fvalid = false) : s.ResultsInv := by
  constructor <;> simp [hq, hp, hy, hf]

end State.ResultsInv

/-- `t` has the memory, the valid flags and the result registers of `s`. -/
structure State.SameResults (s t : State) : Prop where
  mem : t.mem = s.mem
  qvalid : t.qvalid = s.qvalid
  pvalid : t.pvalid = s.pvalid
  yvalid : t.yvalid = s.yvalid
  fvalid : t.fvalid = s.fvalid
  reduced : t.reduced = s.reduced
  palCount : t.palCount = s.palCount
  bitWidth : t.bitWidth = s.bitWidth
  packLen : t.packLen = s.packLen
  payloadLen : t.payloadLen = s.payloadLen
  innerLen : t.innerLen = s.innerLen
  checksum : t.checksum = s.checksum
  outLen : t.outLen = s.outLen

theorem State.SameResults.sameOn {s t : State} (h : s.SameResults t) (lo hi : Nat) : s.mem.SameOn t.mem lo hi :=
  h.mem ▸ Memory.SameOn.refl _ lo hi

theorem State.ResultsInv.congr {s t : State} (h : s.ResultsInv) (e : s.SameResults t) : t.ResultsInv where
  quantized := h.quantized_congr e.qvalid (e.sameOn _ _) (e.sameOn _ _) (e.sameOn _ _) e.palCount e.reduced
  packed := h.packed_congr e.qvalid e.pvalid (e.sameOn _ _) (e.sameOn _ _) e.bitWidth e.packLen
  payload := h.payload_congr e.pvalid e.yvalid (e.sameOn _ _) (e.sameOn _ _) e.payloadLen
  frame := h.frame_congr e.fvalid (e.sameOn _ _) e.outLen e.innerLen e.checksum

/-! ### What each command leaves -/

section
variable {s : State} {q : Quantized}

theorem resultsInv_applyQuantized (h : s.ResultsInv) (hw : s.PixelsWritten) (hq : quantizeGrid s.samplePixels = q) :
    (applyQuantized q s).ResultsInv := by
  have hf : q.Fits := hq ▸ fits_samplePixels s
  have hlen := hf.palette_le
  obtain ⟨hw', hs⟩ := samplePixels_congr hw (sameOn_applyQuantized s q (by decide) (by decide))
  refine ⟨fun _ => ?_, by simp, by simp,
    h.frame_congr rfl (sameOn_applyQuantized s q (by decide) (by decide)) rfl rfl rfl⟩
  unfold State.HoldsQuantized
  rw [hs, hq]
  refine ⟨hw', ?_, rfl, ?_, holds_storeIndices _ _ hf.length_indexBytes.le⟩
  · rw [applyQuantized_palCount, BitVec.toNat_ofNat, Nat.mod_eq_of_lt (by omega)]
  · exact (holds_storePalette s.mem q.palette hlen).congr (size := 256)
      (Memory.SameOutside.sameOn (same_storeIndices _ _) (by decide)) hlen

theorem resultsInv_applyPacked (h : s.ResultsInv) (hv : s.qvalid = true) (hq : quantizeGrid s.samplePixels = q) :
    (applyPacked (bitWidthOf q.palette.length) (encodePacked q) s).ResultsInv := by
  have hf : q.Fits := hq ▸ fits_samplePixels s
  have hlen := hf.length_encodePacked_le
  have hwidth := hf.bitWidth_le
  have same {lo hi : Nat} :=
    sameOn_applyPacked s (lo := lo) (hi := hi) (bitWidthOf q.palette.length) (encodePacked q)
  obtain ⟨_, hs⟩ := samplePixels_congr (h.pixelsWritten_of_qvalid hv) (same (by decide))
  refine ⟨h.quantized_congr rfl (same (by decide)) (same (by decide)) (same (by decide)) rfl rfl,
    fun _ => ⟨hv, ?_⟩, by simp, h.frame_congr rfl (same (by decide)) rfl rfl rfl⟩
  unfold State.HoldsPacked
  rw [hs, hq]
  refine ⟨?_, ?_, holds_storeBytes _ _ _ _ hlen⟩
  · rw [applyPacked_bitWidth, BitVec.toNat_ofNat, Nat.mod_eq_of_lt (by omega)]
  · rw [applyPacked_packLen, BitVec.toNat_ofNat, Nat.mod_eq_of_lt (by omega)]

theorem resultsInv_applyPayload (h : s.ResultsInv) (hv : s.pvalid = true) (hq : quantizeGrid s.samplePixels = q) :
    (applyPayload (encodePayload q) s).ResultsInv := by
  have hf : q.Fits := hq ▸ fits_samplePixels s
  have hlen := hf.length_encodePayload_le
  have same {lo hi : Nat} := sameOn_applyPayload s (lo := lo) (hi := hi) (encodePayload q)
  obtain ⟨_, hs⟩ := samplePixels_congr (h.pixelsWritten_of_pvalid hv) (same (by decide))
  refine ⟨h.quantized_congr rfl (same (by decide)) (same (by decide)) (same (by decide)) rfl rfl,
    h.packed_congr rfl rfl (same (by decide)) (same (by decide)) rfl rfl, fun _ => ⟨hv, ?_⟩,
    h.frame_congr rfl (same (by decide)) rfl rfl rfl⟩
  unfold State.HoldsPayload
  rw [hs, hq]
  refine ⟨?_, holds_storeBytes _ _ _ _ hlen⟩
  rw [applyPayload_payloadLen, BitVec.toNat_ofNat, Nat.mod_eq_of_lt (by omega)]

theorem holdsFrame_applyFrame (cmd : Byte) {y : List Byte} (stuff : Bool) (hy : y.length ≤ 2048) :
    (applyFrame cmd y stuff s).HoldsFrame cmd y stuff := by
  have hlen := length_frameBytes_le cmd y stuff
  have hsum : frameChecksum cmd y < 65536 := Nat.mod_lt _ (by decide)
  refine ⟨hy, ?_, ?_, ?_, holds_storeBytes _ _ _ _ (by simp only [outSize]; omega)⟩
  · rw [applyFrame_outLen, BitVec.toNat_ofNat, Nat.mod_eq_of_lt (by omega)]
  · rw [applyFrame_innerLen, BitVec.toNat_ofNat, Nat.mod_eq_of_lt (by simp only [innerLength]; omega)]
  · rw [applyFrame_checksum, BitVec.toNat_ofNat, Nat.mod_eq_of_lt hsum]

theorem resultsInv_applyFrame (h : s.ResultsInv) (cmd : Byte) {y : List Byte} (stuff : Bool) (hy : y.length ≤ 2048) :
    (applyFrame cmd y stuff s).ResultsInv := by
  have same {lo hi : Nat} := sameOn_applyFrame s (lo := lo) (hi := hi) cmd y stuff
  exact ⟨h.quantized_congr rfl (same (by decide)) (same (by decide)) (same (by decide)) rfl rfl,
    h.packed_congr rfl rfl (same (by decide)) (same (by decide)) rfl rfl,
    h.payload_congr rfl rfl (same (by decide)) (same (by decide)) rfl,
    fun _ => ⟨cmd, y, stuff, holdsFrame_applyFrame cmd stuff hy⟩⟩

/-- ENCODE is the four stages one after the other (43_control.md R186). -/
theorem resultsInv_applyEncoded (h : s.ResultsInv) (hw : s.PixelsWritten) (hq : quantizeGrid s.samplePixels = q)
    (stuff : Bool) : (applyEncoded q stuff s).ResultsInv := by
  have hf : q.Fits := hq ▸ fits_samplePixels s
  obtain ⟨hw1, hs1⟩ := samplePixels_congr hw (sameOn_applyQuantized s q (by decide) (by decide))
  have h1 := resultsInv_applyQuantized h hw hq
  obtain ⟨_, hs2⟩ := samplePixels_congr hw1
    (sameOn_applyPacked _ (bitWidthOf q.palette.length) (encodePacked q) (by decide))
  have h2 := resultsInv_applyPacked (q := q) h1 rfl (by rw [hs1, hq])
  have h3 := resultsInv_applyPayload (q := q) h2 rfl (by rw [hs2, hs1, hq])
  exact resultsInv_applyFrame h3 _ stuff hf.length_encodePayload_le

end

theorem resultsInv_finish {s : State} (h : s.ResultsInv) : s.finish.ResultsInv := h.congr (by constructor <;> rfl)

/-! ### Snapshots -/

/-- What `State.SnapshotInv` says of a running command's snapshot (`snapshotInv_run`). -/
def State.SnapshotHolds (s : State) : Snapshot → Prop
  | .nop => True
  | .quantize pixels => s.PixelsWritten ∧ pixels = s.samplePixels
  | .pack indices palCount qvalid =>
    s.qvalid = true ∧ qvalid = true ∧ indices = s.sampleIndices ∧ palCount = s.palCount
  | .buildPayload palette palCount packed packLen qvalid pvalid =>
    s.pvalid = true ∧ qvalid = true ∧ pvalid = true ∧ palette = s.samplePalette ∧ palCount = s.palCount
      ∧ packed = s.samplePacked ∧ packLen = s.packLen
  | .frame cmd payloadLen payload stuff =>
    s.payloadLen.toNat ≤ Config.payloadMax ∧ s.PayloadWritten ∧ cmd = s.frameCmd
      ∧ payloadLen = s.payloadLen ∧ payload = s.samplePayload ∧ stuff = s.stuff
  | .encode pixels stuff => s.PixelsWritten ∧ pixels = s.samplePixels ∧ stuff = s.stuff

theorem snapshotInv_idle {s : State} (h : s.seq = .idle) : s.SnapshotInv := by
  unfold State.SnapshotInv; rw [h]; trivial

theorem snapshotInv_run {s : State} {snap : Snapshot} {k : Nat} (h : s.seq = .run snap k) :
    s.SnapshotInv ↔ 1 ≤ k ∧ s.SnapshotHolds snap := by
  unfold State.SnapshotInv; rw [h]; cases snap <;> rfl

/-- What acceptance checked is what the snapshot must hold (43_control.md R182). -/
theorem snapshotHolds_of_acceptable {s : State} {snap : Snapshot} (h : Acceptable s snap) : s.SnapshotHolds snap := by
  cases snap with
  | nop => trivial
  | quantize pixels =>
    obtain ⟨hw, hpx⟩ := h
    exact ⟨(firstUnwrittenPixel_eq_none s).1 hw, hpx⟩
  | pack indices palCount qvalid =>
    obtain ⟨hq, hi, hn, hv⟩ := h
    exact ⟨hq, hv, hi, hn⟩
  | buildPayload palette palCount packed packLen qvalid pvalid =>
    obtain ⟨_, hp, hpal, hn, hb, hl, hqv, hpv⟩ := h
    exact ⟨hp, hqv, hpv, hpal, hn, hb, hl⟩
  | frame cmd payloadLen payload stuff =>
    obtain ⟨hl, hw, hc, hn, hy, hst⟩ := h
    exact ⟨hl, (firstUnwrittenPayload_eq_none s).1 hw, hc, hn, hy, hst⟩
  | encode pixels stuff =>
    obtain ⟨hw, hpx, hst⟩ := h
    exact ⟨(firstUnwrittenPixel_eq_none s).1 hw, hpx, hst⟩

section
variable {s t : State}

theorem palCount_of_holdsQuantized (h : s.HoldsQuantized) :
    s.palCount.toNat = (quantizeGrid s.samplePixels).palette.length := by
  obtain ⟨_, hn, _⟩ := h
  exact hn

theorem sampleIndices_of_holdsQuantized (h : s.HoldsQuantized) :
    s.sampleIndices = indexBytes (quantizeGrid s.samplePixels).indices := by
  obtain ⟨_, _, _, _, hi⟩ := h
  exact sampleIndices_of_holds (fits_samplePixels s).length_indexBytes hi

theorem samplePalette_of_holdsQuantized (h : s.HoldsQuantized) :
    s.samplePalette = (quantizeGrid s.samplePixels).palette := by
  obtain ⟨_, hn, _, hp, _⟩ := h
  exact samplePalette_of_holds hn hp

theorem samplePacked_of_holdsPacked (h : s.HoldsPacked) :
    s.samplePacked = encodePacked (quantizeGrid s.samplePixels) := by
  obtain ⟨_, hl, hb⟩ := h
  exact samplePacked_of_holds hl hb

/-- A snapshot goes on holding while the command's inputs stay, whatever free values are drawn meanwhile. -/
theorem State.SnapshotHolds.congr {snap : Snapshot} (h : s.SnapshotHolds snap) (hr : s.ResultsInv)
    (e : s.SameResults t) (hcmd : t.frameCmd = s.frameCmd) (hstuff : t.stuff = s.stuff) : t.SnapshotHolds snap := by
  have hr' := hr.congr e
  have pixels (hw : s.PixelsWritten) := samplePixels_congr hw (e.sameOn _ _)
  cases snap with
  | nop => trivial
  | quantize px =>
    obtain ⟨hw, hpx⟩ := h
    obtain ⟨hw', hs⟩ := pixels hw
    exact ⟨hw', hpx.trans hs.symm⟩
  | pack indices palCount qvalid =>
    obtain ⟨hq, hv, hidx, hn⟩ := h
    have hq' := e.qvalid.trans hq
    have hs := (pixels (hr.pixelsWritten_of_qvalid hq)).2
    refine ⟨hq', hv, ?_, hn.trans e.palCount.symm⟩
    rw [hidx, sampleIndices_of_holdsQuantized (hr.quantized hq),
      sampleIndices_of_holdsQuantized (hr'.quantized hq'), hs]
  | buildPayload palette palCount packed packLen qvalid pvalid =>
    obtain ⟨hp, hqv, hpv, rfl, rfl, rfl, rfl⟩ := h
    have hp' := e.pvalid.trans hp
    have hs := (pixels (hr.pixelsWritten_of_pvalid hp)).2
    refine ⟨hp', hqv, hpv, ?_, e.palCount.symm, ?_, e.packLen.symm⟩
    · rw [samplePalette_of_holdsQuantized (hr.holdsQuantized_of_pvalid hp),
        samplePalette_of_holdsQuantized (hr'.holdsQuantized_of_pvalid hp'), hs]
    · rw [samplePacked_of_holdsPacked (hr.packed hp).2, samplePacked_of_holdsPacked (hr'.packed hp').2, hs]
  | frame cmd payloadLen payload stuff =>
    obtain ⟨hl, hw, rfl, rfl, rfl, rfl⟩ := h
    obtain ⟨hw', hy⟩ := samplePayload_congr hw e.payloadLen e.mem
    exact ⟨e.payloadLen ▸ hl, hw', hcmd.symm, e.payloadLen.symm, hy.symm, hstuff.symm⟩
  | encode px stuff =>
    obtain ⟨hw, hpx, hst⟩ := h
    obtain ⟨hw', hs⟩ := pixels hw
    exact ⟨hw', hpx.trans hs.symm, hst.trans hstuff.symm⟩

/-- The completion of a command whose snapshot still holds leaves results that mean what the flags say. -/
theorem resultsInv_complete {snap : Snapshot} (hr : s.ResultsInv) (h : s.SnapshotHolds snap) :
    (complete snap s).ResultsInv := by
  cases snap with
  | nop => exact resultsInv_finish hr
  | quantize px =>
    obtain ⟨hw, hpx⟩ := h
    rw [hpx]
    exact resultsInv_finish (resultsInv_applyQuantized hr hw rfl)
  | pack indices palCount qvalid =>
    obtain ⟨hq, _, hidx, hn⟩ := h
    rw [hidx, hn]
    have hf := fits_samplePixels s
    have hn := palCount_of_holdsQuantized (hr.quantized hq)
    have hb : packBytes s.sampleIndices s.palCount = encodePacked (quantizeGrid s.samplePixels) := by
      rw [sampleIndices_of_holdsQuantized (hr.quantized hq), hf.packBytes_eq hn]
    change (completePack s.sampleIndices s.palCount s).ResultsInv
    rw [completePack, hb, hn]
    exact resultsInv_finish (resultsInv_applyPacked hr hq rfl)
  | buildPayload palette palCount packed packLen qvalid pvalid =>
    obtain ⟨hp, _, _, rfl, rfl, rfl, rfl⟩ := h
    change (completeBuildPayload s.samplePalette s.samplePacked s).ResultsInv
    rw [completeBuildPayload, samplePalette_of_holdsQuantized (hr.holdsQuantized_of_pvalid hp),
      samplePacked_of_holdsPacked (hr.packed hp).2]
    exact resultsInv_finish (resultsInv_applyPayload hr hp rfl)
  | frame cmd payloadLen payload stuff =>
    obtain ⟨hl, _, rfl, rfl, rfl, rfl⟩ := h
    exact resultsInv_finish (resultsInv_applyFrame hr _ _ ((length_samplePayload s).trans_le hl))
  | encode px stuff =>
    obtain ⟨hw, hpx, hst⟩ := h
    rw [hpx]
    exact resultsInv_finish (resultsInv_applyEncoded hr hw rfl _)

/-! ### Every step -/

/-- The invariant outlives whatever changes neither results, SEQ nor a running command's registers. -/
theorem State.ValidInv.congr (h : s.ValidInv) (e : s.SameResults t) (hseq : t.seq = s.seq)
    (hcmd : t.frameCmd = s.frameCmd) (hstuff : t.stuff = s.stuff) : t.ValidInv := by
  obtain ⟨hs, hr⟩ := (validInv_iff s).1 h
  refine (validInv_iff t).2 ⟨?_, hr.congr e⟩
  cases hq : s.seq with
  | idle => exact snapshotInv_idle (hseq.trans hq)
  | run snap k =>
    obtain ⟨hk, hh⟩ := (snapshotInv_run hq).1 hs
    exact (snapshotInv_run (hseq.trans hq)).2 ⟨hk, hh.congr hr e hcmd hstuff⟩

theorem validInv_of_idle (hi : s.seq = .idle) (hr : s.ResultsInv) : s.ValidInv :=
  (validInv_iff s).2 ⟨snapshotInv_idle hi, hr⟩

/-- The last tick turns the snapshot's clause into that of the flag it raises. -/
theorem validInv_tick (h : s.ValidInv) : (tick s).ValidInv := by
  obtain ⟨hs, hr⟩ := (validInv_iff s).1 h
  cases hq : s.seq with
  | idle => rw [tick_idle hq]; exact h
  | run snap k =>
    obtain ⟨hk, hh⟩ := (snapshotInv_run hq).1 hs
    by_cases h1 : k ≤ 1
    · rw [tick_last hq h1]
      exact validInv_of_idle (complete_seq snap s) (resultsInv_complete hr hh)
    · rw [tick_more hq (by omega)]
      have e : s.SameResults { s with seq := .run snap (k - 1) } := by constructor <;> rfl
      exact (validInv_iff _).2 ⟨(snapshotInv_run rfl).2 ⟨by omega, hh.congr hr e rfl rfl⟩, hr.congr e⟩

/-- Acceptance establishes the snapshot's clause. -/
theorem validInv_accept {snap : Snapshot} (h : s.ValidInv) (ha : Acceptable s snap) : (accept snap s).ValidInv := by
  obtain ⟨_, hr⟩ := (validInv_iff s).1 h
  have e : s.SameResults (accept snap s) := by constructor <;> rfl
  have hh := (snapshotHolds_of_acceptable ha).congr hr e rfl rfl
  exact (validInv_iff _).2 ⟨(snapshotInv_run rfl).2 ⟨latency_pos _ _, hh⟩, hr.congr e⟩

/-- A pixel write takes the image flags with it; a wire frame stays (20_memory.md R83). -/
theorem resultsInv_writePixel (hr : s.ResultsInv) {p : Nat} (v : Word) (hp : p < 1024) :
    (s.writePixel p v).ResultsInv :=
  ⟨by simp, by simp, by simp, hr.frame_congr rfl (sameOn_writePixel s v hp (by decide)) rfl rfl rfl⟩

theorem resultsInv_writePayload (hr : s.ResultsInv) {k : Nat} (v : Word) (hk : k < 512) :
    (s.writePayload k v).ResultsInv := by
  have same {lo hi : Nat} := sameOn_writePayload s (lo := lo) (hi := hi) v hk
  exact ⟨hr.quantized_congr rfl (same (by decide)) (same (by decide)) (same (by decide)) rfl rfl,
    hr.packed_congr rfl rfl (same (by decide)) (same (by decide)) rfl rfl, by simp,
    hr.frame_congr rfl (same (by decide)) rfl rfl rfl⟩

theorem resultsInv_writePayloadLen (hr : s.ResultsInv) (v : Word) : (s.writePayloadLen v).ResultsInv := by
  have same {lo hi : Nat} : s.mem.SameOn (s.writePayloadLen v).mem lo hi := Memory.SameOn.refl _ _ _
  exact ⟨hr.quantized_congr rfl same same same rfl rfl, hr.packed_congr rfl rfl same same rfl rfl, by simp,
    hr.frame_congr rfl same rfl rfl rfl⟩

theorem validInv_change (h : s.ValidInv) (c : Change s t) : t.ValidInv := by
  obtain ⟨_, hr⟩ := (validInv_iff s).1 h
  cases c with
  | same => exact h
  | tick => exact validInv_tick h
  | read a => exact h.congr (by constructor <;> rfl) rfl rfl rfl
  | error c => exact h.congr (by constructor <;> rfl) rfl rfl rfl
  | status v => exact h.congr (by constructor <;> rfl) rfl rfl rfl
  | ctrl v hi => exact validInv_of_idle hi (hr.congr (by constructor <;> rfl))
  | frameCmd v hi => exact validInv_of_idle hi (hr.congr (by constructor <;> rfl))
  | payloadLen v hi => exact validInv_of_idle hi (resultsInv_writePayloadLen hr v)
  | pixel a p v hi ha => exact validInv_of_idle hi (resultsInv_writePixel hr v (pixel_lt ha))
  | payload a k v hi ha => exact validInv_of_idle hi (resultsInv_writePayload hr v (payload_lt ha))
  | accept snap hi ha => exact validInv_accept h ha
  | softReset hi => exact validInv_of_idle hi (.of_flags_clear rfl rfl rfl rfl)
  | hardReset => exact validInv_of_idle rfl (.of_flags_clear rfl rfl rfl rfl)

end

/-- Settles O53: every change a step can make to the block keeps the flags, the results they name and the running
command's snapshot together. -/
theorem stepKeepsValidFlagsTruthful : Obligations.StepKeepsValidFlagsTruthful := by
  intro s t h hstep
  obtain ⟨rest, c⟩ := step_change hstep
  have h' : State.ValidInv { s with turns := rest } := h.congr (by constructor <;> rfl) rfl rfl rfl
  exact validInv_change h' c

end Sys2Proof.Machine
end

section
/-! PROOFS. Over every step the memory keeps its canonical form and lists only addresses at which a memory entry keeps
a byte (20_memory.md R62, 10_state.md R49 to R54). -/

namespace Sys2Proof.Machine

namespace Memory

/-- `State.MemoryInv` of the memory alone (`memoryInv_iff`). -/
def Canonical (m : Memory) : Prop := m.wf ∧ ∀ c ∈ m, cellExists c.1 = true

/-! ### Cells of entries that exist -/

theorem canonical_byteCells {a : Nat} {bs : List Byte}
    (h : ∀ x, a ≤ x → x < a + bs.length → cellExists x = true) : Canonical (byteCells a bs) := by
  refine ⟨wf_byteCells a bs, fun c hc => ?_⟩
  obtain ⟨h1, h2⟩ := within_byteCells a bs c hc
  exact h _ h1 h2

theorem mem_colourCells {a : Nat} {cs : List Colour} {c : Host.Cell} (h : c ∈ colourCells a cs) :
    ∃ i < cs.length, ∃ j < 3, c.1 = a + 4 * i + j := by
  induction cs generalizing a with
  | nil => simp [colourCells] at h
  | cons d cs ih =>
    simp only [colourCells, List.mem_cons] at h
    rcases h with rfl | rfl | rfl | h
    · exact ⟨0, by simp, 0, by decide, rfl⟩
    · exact ⟨0, by simp, 1, by decide, rfl⟩
    · exact ⟨0, by simp, 2, by decide, rfl⟩
    · obtain ⟨i, hi, j, hj, e⟩ := ih h
      exact ⟨i + 1, by simpa using hi, j, hj, by omega⟩

theorem mem_indexCells {a : Nat} {bs : List Byte} {c : Host.Cell} (h : c ∈ indexCells a bs) :
    ∃ i < bs.length, c.1 = a + 4 * i := by
  induction bs generalizing a with
  | nil => simp [indexCells] at h
  | cons b bs ih =>
    rcases List.mem_cons.1 h with rfl | h
    · exact ⟨0, by simp, rfl⟩
    · obtain ⟨i, hi, e⟩ := ih h
      exact ⟨i + 1, by simpa using hi, by omega⟩

theorem canonical_colourCells {a : Nat} {cs : List Colour}
    (h : ∀ i < cs.length, ∀ j < 3, cellExists (a + 4 * i + j) = true) : Canonical (colourCells a cs) := by
  refine ⟨wf_colourCells a cs, fun c hc => ?_⟩
  obtain ⟨i, hi, j, hj, e⟩ := mem_colourCells hc
  exact e ▸ h i hi j hj

theorem canonical_indexCells {a : Nat} {bs : List Byte} (h : ∀ i < bs.length, cellExists (a + 4 * i) = true) :
    Canonical (indexCells a bs) := by
  refine ⟨wf_indexCells a bs, fun c hc => ?_⟩
  obtain ⟨i, hi, e⟩ := mem_indexCells hc
  exact e ▸ h i hi

/-! ### The stores -/

variable {m : Memory}

theorem Canonical.replace (h : m.Canonical) {lo hi : Nat} {cells : Memory} (hle : lo ≤ hi) (hc : cells.Canonical)
    (hw : Within cells lo hi) : (m.replace lo hi cells).Canonical := by
  obtain ⟨hwf, hex⟩ := h
  obtain ⟨hcwf, hcex⟩ := hc
  exact ⟨wf_replace hwf hle hcwf hw, fun c hmem => (mem_replace hmem).elim (hex c) (hcex c)⟩

theorem Canonical.storeBytes (h : m.Canonical) {base size : Nat} (bs : List Byte)
    (hex : ∀ a, base ≤ a → a < base + size → cellExists a = true) : (m.storeBytes base size bs).Canonical := by
  refine h.replace (by omega) (canonical_byteCells fun x h1 h2 => hex x h1 ?_) (within_byteCells _ _)
  have := List.length_take_le size bs
  omega

theorem Canonical.storePalette (h : m.Canonical) (p : List Colour) : (m.storePalette p).Canonical :=
  h.replace (by omega) (canonical_colourCells fun i hi j hj =>
    cellExists_palette i j (hi.trans_le (List.length_take_le 256 p)) hj) (within_palette p)

theorem Canonical.storeIndices (h : m.Canonical) (b : List Byte) : (m.storeIndices b).Canonical :=
  h.replace (by omega) (canonical_indexCells fun i hi =>
    cellExists_index i (hi.trans_le (List.length_take_le 1024 b))) (within_indices b)

end Memory

/-! ### Every step -/

section
variable {s t : State}

theorem memoryInv_iff : s.MemoryInv ↔ s.mem.Canonical := Iff.rfl

theorem State.MemoryInv.congr (h : s.MemoryInv) (hm : t.mem = s.mem) : t.MemoryInv :=
  memoryInv_iff.2 (hm ▸ memoryInv_iff.1 h)

theorem memoryInv_applyQuantized (h : s.MemoryInv) (q : Quantized) : (applyQuantized q s).MemoryInv :=
  memoryInv_iff.2 (((memoryInv_iff.1 h).storePalette q.palette).storeIndices (indexBytes q.indices))

theorem memoryInv_applyPacked (h : s.MemoryInv) (w : Nat) (b : List Byte) : (applyPacked w b s).MemoryInv :=
  memoryInv_iff.2 ((memoryInv_iff.1 h).storeBytes b cellExists_pack)

theorem memoryInv_applyPayload (h : s.MemoryInv) (y : List Byte) : (applyPayload y s).MemoryInv :=
  memoryInv_iff.2 ((memoryInv_iff.1 h).storeBytes y cellExists_payload)

theorem memoryInv_applyFrame (h : s.MemoryInv) (cmd : Byte) (y : List Byte) (stuff : Bool) :
    (applyFrame cmd y stuff s).MemoryInv :=
  memoryInv_iff.2 ((memoryInv_iff.1 h).storeBytes (frameBytes cmd y stuff) cellExists_out)

theorem memoryInv_complete (h : s.MemoryInv) (snap : Snapshot) : (complete snap s).MemoryInv := by
  cases snap with
  | nop => exact h
  | quantize px => exact memoryInv_applyQuantized h _
  | pack indices palCount qvalid =>
    exact memoryInv_applyPacked h (bitWidthOf palCount.toNat) (packBytes indices palCount)
  | buildPayload palette palCount packed packLen qvalid pvalid => exact memoryInv_applyPayload h _
  | frame cmd payloadLen payload stuff => exact memoryInv_applyFrame h cmd payload stuff
  | encode px stuff =>
    have hq := memoryInv_applyQuantized h (quantizeGrid px)
    exact memoryInv_applyFrame (memoryInv_applyPayload (memoryInv_applyPacked hq _ _) _) _ _ _

theorem memoryInv_tick (h : s.MemoryInv) : (tick s).MemoryInv := by
  rcases tick_cases s with e | ⟨snap, k, _, _, e⟩ | ⟨snap, k, _, _, e⟩
  · rw [e]; exact h
  · rw [e]; exact h
  · rw [e]; exact memoryInv_complete h snap

theorem memoryInv_writePixel (h : s.MemoryInv) {p : Nat} (hp : p < 1024) (v : Word) : (s.writePixel p v).MemoryInv := by
  refine memoryInv_iff.2 ((memoryInv_iff.1 h).replace (by omega) (Memory.canonical_colourCells fun i hi j hj => ?_)
    (Memory.within_colourCells _ _))
  obtain rfl : i = 0 := Nat.lt_one_iff.1 hi
  exact cellExists_pixel p j hp hj

theorem memoryInv_writePayload (h : s.MemoryInv) {k : Nat} (hk : k < 512) (v : Word) :
    (s.writePayload k v).MemoryInv := by
  refine memoryInv_iff.2 ((memoryInv_iff.1 h).replace (by omega) (Memory.canonical_byteCells fun x h1 h2 => ?_)
    (Memory.within_byteCells _ _))
  simp only [List.length_cons, List.length_nil] at h2
  exact cellExists_payload x (by omega) (by simp only [payloadSize]; omega)

theorem memoryInv_change (h : s.MemoryInv) (c : Change s t) : t.MemoryInv := by
  cases c with
  | tick => exact memoryInv_tick h
  | pixel a p v _ ha => exact memoryInv_writePixel h (pixel_lt ha) v
  | payload a k v _ ha => exact memoryInv_writePayload h (payload_lt ha) v
  | hardReset => exact memoryInv_iff.2 ⟨List.Pairwise.nil, nofun⟩
  | same | read | error | status | ctrl | frameCmd | payloadLen | accept | softReset => exact h.congr rfl

end

/-- Settles O52: whatever a step writes to memory, it writes as cells of entries that exist, in rising order. -/
theorem stepKeepsMemoryCanonical : Obligations.StepKeepsMemoryCanonical := by
  intro s t h hstep
  obtain ⟨rest, c⟩ := step_change hstep
  have h' : State.MemoryInv { s with turns := rest } := h.congr rfl
  exact memoryInv_change h' c

end Sys2Proof.Machine
end

section
/-! PROOFS. The address map in both directions (20_memory.md R60, R62, 10_state.md R26, R48). -/

namespace Sys2Proof.Machine

/-! ### What names a word -/

/-- The register's word number: its offset of 10_state.md R26, divided by 4 (`csrOfWord_eq_some_iff`). -/
def Csr.word : Csr → Nat
  | .id => 0
  | .ctrl => 1
  | .cmd => 2
  | .status => 3
  | .errCode => 4
  | .frameCmd => 5
  | .payloadLen => 6
  | .palCount => 7
  | .bitWidth => 8
  | .packLen => 9
  | .innerLen => 10
  | .checksum => 11
  | .outLen => 12

theorem csrOfWord_word (r : Csr) : csrOfWord r.word = some r := by cases r <;> rfl

theorem Csr.word_lt (r : Csr) : r.word < 13 := by cases r <;> decide

theorem word_of_csrOfWord {w : Nat} {r : Csr} (h : csrOfWord w = some r) : w = r.word := by
  by_cases hw : 13 ≤ w
  · rw [csrOfWord_none hw] at h; cases h
  · interval_cases w <;> cases h <;> rfl

/-- The words that a target stands at, as 20_memory.md R62 lists them (`targetOfWord_eq_iff`). -/
def Target.StandsAt (w : Nat) : Target → Prop
  | .csr r => w = r.word
  | .pixel p => p < 1024 ∧ w = 0x400 + p
  | .payload k => k < 512 ∧ w = 0x800 + k
  | .palette i => i < 256 ∧ w = 0xC00 + i
  | .pack k => k < 256 ∧ w = 0xD00 + k
  | .index p => p < 1024 ∧ w = 0x1000 + p
  | .out k => k < 2048 ∧ w = 0x2000 + k
  | .reserved => (13 ≤ w ∧ w < 0x400) ∨ (0xA00 ≤ w ∧ w < 0xC00) ∨ (0xE00 ≤ w ∧ w < 0x1000)
      ∨ (0x1400 ≤ w ∧ w < 0x2000) ∨ 0x2800 ≤ w

theorem targetOfWord_standsAt (w : Nat) : (targetOfWord w).StandsAt w := by
  unfold targetOfWord
  split_ifs
  case pos hw =>
    split
    · next r hr => exact word_of_csrOfWord hr
    · next hr =>
      refine .inl ⟨not_lt.1 fun h => ?_, hw⟩
      interval_cases w <;> cases hr
  all_goals simp only [Target.StandsAt]; omega

theorem targetOfWord_csr (r : Csr) : targetOfWord r.word = .csr r := by
  have := r.word_lt
  unfold targetOfWord
  rw [if_pos (by omega), csrOfWord_word]

theorem targetOfWord_reserved {w : Nat} (h : Target.reserved.StandsAt w) : targetOfWord w = .reserved := by
  unfold Target.StandsAt at h
  unfold targetOfWord
  by_cases hw : w < 0x400
  · rw [if_pos hw, csrOfWord_none (by omega)]
  · rw [if_neg hw]
    split_ifs <;> first | omega | rfl

/-- A word names exactly the target that stands there. -/
theorem targetOfWord_eq_iff {w : Nat} {x : Target} : targetOfWord w = x ↔ x.StandsAt w := by
  refine ⟨fun h => h ▸ targetOfWord_standsAt w, fun h => ?_⟩
  cases x with
  | csr r => exact (congrArg targetOfWord h).trans (targetOfWord_csr r)
  | pixel p => exact h.2 ▸ targetOfWord_pixel p h.1
  | payload k => exact h.2 ▸ targetOfWord_payload k h.1
  | palette i => exact h.2 ▸ targetOfWord_palette i h.1
  | pack k => exact h.2 ▸ targetOfWord_pack k h.1
  | index p => exact h.2 ▸ targetOfWord_index p h.1
  | out k => exact h.2 ▸ targetOfWord_out k h.1
  | reserved => exact targetOfWord_reserved h

theorem targetOf_eq_iff {a : Addr} {x : Target} : targetOf a = x ↔ x.StandsAt (a.toNat / 4) := targetOfWord_eq_iff

/-- Settles O58: the map is `Target.StandsAt`, read at byte addresses. -/
theorem addressMapNamesEveryWord : Obligations.AddressMapNamesEveryWord := by
  intro a w
  have at_csr (r : Csr) : targetOf a = .csr r ↔ w = r.word := targetOf_eq_iff
  have at_region {x : Target} {n size : Nat} (base : Nat) (hx : x.StandsAt w ↔ n < size ∧ w = base + n) :
      targetOf a = x ↔ n < size ∧ 4 * w = 4 * base + 4 * n :=
    (targetOf_eq_iff.trans hx).trans (and_congr_right fun _ => by omega)
  refine ⟨at_csr .id, at_csr .ctrl, at_csr .cmd, at_csr .status, at_csr .errCode, at_csr .frameCmd,
    at_csr .payloadLen, at_csr .palCount, at_csr .bitWidth, at_csr .packLen, at_csr .innerLen, at_csr .checksum,
    at_csr .outLen, fun p => at_region 0x400 Iff.rfl, fun k => at_region 0x800 Iff.rfl,
    fun i => at_region 0xC00 Iff.rfl, fun k => at_region 0xD00 Iff.rfl, fun p => at_region 0x1000 Iff.rfl,
    fun k => at_region 0x2000 Iff.rfl, targetOf_eq_iff.trans ?_⟩
  simp only [Target.StandsAt]
  omega

/-! ### Address bits 1:0 -/

theorem toNat_aligned (a : Addr) : (a &&& 0xFFFC).toNat / 4 = a.toNat / 4 := by
  have hmask : (0xFFFC : Addr).toNat / 4 = 2 ^ 14 - 1 := rfl
  have hlt := a.isLt
  rw [BitVec.toNat_and, ← Nat.shiftRight_eq_div_pow _ 2, Nat.shiftRight_and_distrib, Nat.shiftRight_eq_div_pow,
    Nat.shiftRight_eq_div_pow, hmask, Nat.and_two_pow_sub_one_eq_mod, Nat.mod_eq_of_lt (by omega)]

theorem targetOf_aligned (a : Addr) : targetOf (a &&& 0xFFFC) = targetOf a := targetOf_of_word (toNat_aligned a)

theorem memRead_aligned (s : State) (a : Addr) : s.memRead (a &&& 0xFFFC) = s.memRead a := by
  rw [State.memRead, State.memRead, targetOf_aligned, BitVec.and_assoc, BitVec.and_self]

/-- Settles O21: an aligned address names the same target and draws the same free value. -/
theorem lowAddressBitsAreNotDecoded : Obligations.LowAddressBitsAreNotDecoded := by
  intro a v s
  constructor
  · rw [hostRead, hostRead, memRead_aligned]
  · rw [hostWrite, hostWrite, targetOf_aligned]

end Sys2Proof.Machine
end

section
/-! PROOFS. What the host reads of the memories, and that what it writes to them reads back (20_memory.md R64 to R69,
R73, R74). -/

namespace Sys2Proof.Machine

/-! ### Reads have no side effect -/

theorem step_read {s : State} {rest : List Turn} {a : Addr} (ht : s.turns = .read a :: rest) :
    step s = .next (hostRead a { s with turns := rest }) := by
  unfold step; rw [ht]; rfl

/-- Settles O22: a read turn is `hostRead`. -/
theorem readsHaveNoSideEffect : Obligations.ReadsHaveNoSideEffect := fun _ _ _ ht => ⟨_, step_read ht, rfl⟩

/-! ### Entries that hold a value -/

section
variable {s : State}

theorem memRead_pixel {p : Nat} (hp : p < 1024) {c : Colour} (h : s.mem.colour? (0x1000 + 4 * p) = some c) :
    s.memRead (BitVec.ofNat 16 (0x1000 + 4 * p)) = c.setWidth 32 := by
  rw [memRead_of_target s (targetOf_pixel p hp), State.readTarget, readColour_held h, resolve_exactly]

theorem memRead_palette {i : Nat} (hi : i < 256) {c : Colour} (himg : s.imagePending = false)
    (hn : i < s.palCount.toNat) (h : s.mem.colour? (0x3000 + 4 * i) = some c) :
    s.memRead (BitVec.ofNat 16 (0x3000 + 4 * i)) = c.setWidth 32 := by
  rw [memRead_of_target s (targetOf_palette i hi), State.readTarget, himg, decide_eq_false (by omega),
    Bool.or_false, readColour_held h, resolve_exactly]

theorem memRead_index {p : Nat} (hp : p < 1024) {b : Byte} (himg : s.imagePending = false)
    (h : s.mem.read (0x4000 + 4 * p) = some b) :
    s.memRead (BitVec.ofNat 16 (0x4000 + 4 * p)) = b.setWidth 32 := by
  rw [memRead_of_target s (targetOf_index p hp), State.readTarget, himg, readIndex_held h, resolve_exactly]

/-- Lane `j` of a word of a byte memory is its byte, where that is held, below the valid length and in no write set. -/
theorem byteOfWord_resolve_readBytes {base valid pending k j : Nat} (d : Word) (hj : j < 4) {b : Byte}
    (hv : 4 * k + j < valid) (hp : pending ≤ 4 * k + j) (h : s.mem.read (base + 4 * k + j) = some b) :
    byteOfWord ((s.readBytes base valid pending k).resolve d) j = b := by
  rw [Nat.add_assoc] at h
  rw [byteOfWord_readBytes s base valid pending k d j hj, readByte_held h hv hp]
  simp

theorem byteOfWord_memRead_payload {k j : Nat} (hk : k < 512) (hj : j < 4) {b : Byte}
    (hv : 4 * k + j < s.payloadLen.toNat) (hp : s.pendingLen Snapshot.newPayloadLen ≤ 4 * k + j)
    (h : s.mem.read (0x2000 + 4 * k + j) = some b) :
    byteOfWord (s.memRead (BitVec.ofNat 16 (0x2000 + 4 * k))) j = b := by
  rw [memRead_of_target s (targetOf_payload k hk)]
  exact byteOfWord_resolve_readBytes _ hj hv hp h

theorem byteOfWord_memRead_pack {k j : Nat} (hk : k < 256) (hj : j < 4) {b : Byte}
    (hv : 4 * k + j < s.packLen.toNat) (hp : s.pendingLen Snapshot.newPackLen ≤ 4 * k + j)
    (h : s.mem.read (0x3400 + 4 * k + j) = some b) :
    byteOfWord (s.memRead (BitVec.ofNat 16 (0x3400 + 4 * k))) j = b := by
  rw [memRead_of_target s (targetOf_pack k hk)]
  exact byteOfWord_resolve_readBytes _ hj hv hp h

theorem byteOfWord_memRead_out {k j : Nat} (hk : k < 2048) (hj : j < 4) {b : Byte}
    (hv : 4 * k + j < s.outLen.toNat) (hp : s.pendingLen Snapshot.newOutLen ≤ 4 * k + j)
    (h : s.mem.read (0x8000 + 4 * k + j) = some b) :
    byteOfWord (s.memRead (BitVec.ofNat 16 (0x8000 + 4 * k))) j = b := by
  rw [memRead_of_target s (targetOf_out k hk)]
  exact byteOfWord_resolve_readBytes _ hj hv hp h

/-! ### The running command's write set -/

theorem imagePending_idle (h : s.seq = .idle) : s.imagePending = false := by
  rw [State.imagePending, State.running, h]

theorem pendingLen_idle (h : s.seq = .idle) (newLen : Snapshot → Nat) : s.pendingLen newLen = 0 := by
  rw [State.pendingLen, State.running, h]

theorem imagePending_run {snap : Snapshot} {k : Nat} (h : s.seq = .run snap k) :
    s.imagePending = snap.writesImage := by
  rw [State.imagePending, State.running, h]

theorem pendingLen_run {snap : Snapshot} {k : Nat} (h : s.seq = .run snap k) (newLen : Snapshot → Nat) :
    s.pendingLen newLen = newLen snap := by
  rw [State.pendingLen, State.running, h]

/-- A STATUS bit outside the running command's write set reads exactly (20_memory.md R73). -/
theorem getLsbD_memRead_status_run {snap : Snapshot} {k : Nat} (h : s.seq = .run snap k) {a : Addr}
    (ha : targetOf a = .csr .status) {i : Nat} (hi : snap.statusMask.getLsbD i = false) :
    (s.memRead a).getLsbD i = s.statusWord.getLsbD i := by
  have hrun : s.running = some snap := by rw [State.running, h]
  rw [memRead_of_target s ha, State.readTarget, State.readCsr, hrun]
  exact getLsbD_resolve_masked _ _ _ i hi

end

/-- Settles O30: with no command running nothing is in a write set, and every entry below its length reads back. -/
theorem windowsReadTheEntriesTheyHold : Obligations.WindowsReadTheEntriesTheyHold := by
  intro s hi
  have himg := imagePending_idle hi
  have hpend (newLen : Snapshot → Nat) (n : Nat) : s.pendingLen newLen ≤ n :=
    (pendingLen_idle hi newLen).trans_le (Nat.zero_le n)
  exact ⟨fun p hp c => memRead_pixel hp,
    fun i hi c => memRead_palette hi himg,
    fun p hp b => memRead_index hp himg,
    fun k hk j hj b hv => byteOfWord_memRead_payload hk hj hv (hpend _ _),
    fun k hk j hj b hv => byteOfWord_memRead_pack hk hj hv (hpend _ _),
    fun k hk j hj b hv => byteOfWord_memRead_out hk hj hv (hpend _ _)⟩

/-- Settles O31: the same reads, beyond what the running command's write set holds. -/
theorem readsOutsideTheWriteSetAreExact : Obligations.ReadsOutsideTheWriteSetAreExact := by
  intro s snap k hrun
  have himg := imagePending_run hrun
  have hpend {newLen : Snapshot → Nat} {n : Nat} (h : newLen snap ≤ n) : s.pendingLen newLen ≤ n :=
    (pendingLen_run hrun newLen).trans_le h
  exact ⟨fun a r ha hr hw => memRead_csr_of_exactly ha (readCsr_outside hrun hr hw),
    fun i => getLsbD_memRead_status_run hrun rfl,
    fun p hp c => memRead_pixel hp,
    fun hw => ⟨fun i hi c => memRead_palette hi (himg.trans hw), fun p hp b => memRead_index hp (himg.trans hw)⟩,
    fun n hn j hj b hv hp => byteOfWord_memRead_payload hn hj hv (hpend hp),
    fun n hn j hj b hv hp => byteOfWord_memRead_pack hn hj hv (hpend hp),
    fun n hn j hj b hv hp => byteOfWord_memRead_out hn hj hv (hpend hp)⟩

/-! ### What a host write leaves in memory -/

section
variable (s : State) (v : Word)

theorem colour?_writePixel (p : Nat) :
    (s.writePixel p v).mem.colour? (0x1000 + 4 * p) = some (colourOfWord v) := by
  have lane (j : Nat) (hj : j < 3) :
      (s.writePixel p v).mem.read (0x1000 + 4 * p + j) = some (Memory.colourLane (colourOfWord v) j) := by
    rw [read_writePixel, if_pos (by simp only [pixelBase]; omega)]
    exact Memory.read_colourCells (0x1000 + 4 * p) [colourOfWord v] 0 j hj
  exact Memory.colour?_eq _ _ _ (lane 0 (by decide)) (lane 1 (by decide)) (lane 2 (by decide))

theorem same_writePixel (p : Nat) :
    s.mem.SameOutside (s.writePixel p v).mem (0x1000 + 4 * p) (0x1000 + 4 * p + 4) := fun a ha => by
  rw [read_writePixel, if_neg ha]

theorem read_writePayload_lane (k : Nat) {j : Nat} (hj : j < 4) :
    (s.writePayload k v).mem.read (0x2000 + 4 * k + j) = some (byteOfWord v j) := by
  rw [read_writePayload, if_pos (by simp only [payloadBase]; omega), Memory.read_byteCells,
    if_pos (by simp only [payloadBase]; omega), Nat.add_sub_cancel_left]
  interval_cases j <;> rfl

theorem same_writePayload (k : Nat) :
    s.mem.SameOutside (s.writePayload k v).mem (0x2000 + 4 * k) (0x2000 + 4 * k + 4) := fun a ha => by
  rw [read_writePayload, if_neg ha]

end

/-- A word is its four lanes (20_memory.md R64). -/
theorem eq_of_byteOfWord {u v : Word} (h : ∀ j < 4, byteOfWord u j = byteOfWord v j) : u = v := by
  rw [← wordOfBytes_byteOfWord u, ← wordOfBytes_byteOfWord v, h 0 (by decide), h 1 (by decide), h 2 (by decide),
    h 3 (by decide)]

/-- Settles O25: the write is `State.writePixel` of an idle block, whose entry then reads back. -/
theorem pixelWriteStoresColourAndInvalidates : Obligations.PixelWriteStoresColourAndInvalidates := by
  intro s rest p v hp hi ht
  have hstep := step_write_idle (write := State.writePixel p v) hi ht (targetOf_pixel p hp) nofun fun _ => rfl
  have held := colour?_writePixel { s with turns := rest } v p
  refine ⟨_, hstep, rfl, held, colourWritten_of_colour? held, ?_, same_writePixel { s with turns := rest } v p⟩
  exact (memRead_pixel hp held).trans (setWidth_extractLsb'_zero v (n := 24) (by decide))

/-- Settles O26: the write is `State.writePayload` of an idle block, whose lanes then read back below PAYLOAD_LEN. -/
theorem payloadWriteStoresLittleEndianBytes : Obligations.PayloadWriteStoresLittleEndianBytes := by
  intro s rest k v hk hi ht
  have hstep :=
    step_write_idle (write := State.writePayload k v) hi ht (targetOf_payload k hk) nofun fun _ => rfl
  have lane {j : Nat} (hj : j < 4) := read_writePayload_lane { s with turns := rest } v k hj
  refine ⟨_, hstep, rfl, fun j => lane, fun hlen => eq_of_byteOfWord fun j hj => ?_,
    same_writePayload { s with turns := rest } v k⟩
  have hv : 4 * k + j < s.payloadLen.toNat := by omega
  exact byteOfWord_memRead_payload hk hj hv ((pendingLen_idle hi _).trans_le (Nat.zero_le _)) (lane hj)

end Sys2Proof.Machine
end

section
/-! PROOFS. Host writes that do nothing, and those that a busy block drops (20_memory.md R63, R82). -/

namespace Sys2Proof.Machine

/-! ### Writes without an effect -/

/-- A host write can have an effect there; the rest are read-only registers and memories and reserved words
(20_memory.md R63). -/
def Target.Writable : Target → Bool
  | .csr .ctrl | .csr .cmd | .csr .status | .csr .frameCmd | .csr .payloadLen | .pixel _ | .payload _ => true
  | _ => false

theorem writeTarget_readOnly {x : Target} (h : x.Writable = false) (v : Word) (s : State) : writeTarget x v s = s := by
  cases x with
  | csr r =>
    cases r with
    | ctrl | cmd | status | frameCmd | payloadLen => cases h
    | id | errCode | palCount | bitWidth | packLen | innerLen | checksum | outLen => rfl
  | pixel | payload => cases h
  | palette | pack | index | out | reserved => rfl

theorem step_write_readOnly {s : State} {rest : List Turn} {a : Addr} {v : Word} (ht : s.turns = .write a v :: rest)
    (h : (targetOf a).Writable = false) : step s = .next { s with turns := rest } := by
  have hcmd : targetOf a ≠ .csr .cmd := fun e => by rw [e] at h; cases h
  rw [step_write_target ht rfl hcmd, writeTarget_readOnly h]

/-- The words at which a host write can have an effect (20_memory.md R62). -/
theorem word_range_of_writable {x : Target} {w : Nat} (hx : x.StandsAt w) (h : x.Writable = true) :
    (1 ≤ w ∧ w < 4) ∨ (5 ≤ w ∧ w < 7) ∨ (0x400 ≤ w ∧ w < 0xA00) := by
  cases x with
  | csr r =>
    have hw : w = r.word := hx
    cases r with
    | ctrl | cmd | status | frameCmd | payloadLen => simp only [Csr.word] at hw; omega
    | id | errCode | palCount | bitWidth | packLen | innerLen | checksum | outLen => cases h
  | pixel | payload => simp only [Target.StandsAt] at hx; omega
  | palette | pack | index | out | reserved => cases h

/-- Settles O29: the words outside R62's writable ranges name targets that ignore writes. -/
theorem readOnlyAndReservedWordsIgnoreWrites : Obligations.ReadOnlyAndReservedWordsIgnoreWrites := by
  intro s rest a v n hn ht
  refine ⟨step_write_readOnly ht ?_, fun hres => memRead_reserved (targetOf_eq_iff.2 ?_)⟩
  · refine Bool.eq_false_of_not_eq_true fun h => ?_
    have := word_range_of_writable (targetOf_eq_iff.1 rfl) h
    omega
  · simp only [Target.StandsAt]
    omega

/-! ### Writes to a busy block -/

theorem unlessBusy_busy {s : State} (write : State → State) (h : s.busy = true) :
    unlessBusy write s = raiseError .writeWhileBusy s := by rw [unlessBusy, if_pos h]

theorem exec_busy {s : State} (h : s.busy = true) (i : Instr) : exec i s = .next (raiseError .cmdWhileBusy s) := by
  cases i with
  | softReset => exact if_pos h
  | nop | quantize | pack | buildPayload | frame | encode =>
    simp only [exec, execNop, execQuantize, execPack, execBuildPayload, execFrame, execEncode, issue_busy h]

theorem presentCommand_busy {s : State} (h : s.busy = true) (v : Word) :
    presentCommand v s = .next (raiseError .cmdWhileBusy s) := by
  unfold presentCommand
  split
  · exact exec_busy h _
  · rw [rejectWord, if_pos h]

section
variable {s : State} {rest : List Turn} {a : Addr} {v : Word}

theorem step_write_cmd_busy (hb : s.busy = true) (ht : s.turns = .write a v :: rest) (ha : targetOf a = .csr .cmd) :
    step s = .next (raiseError .cmdWhileBusy { s with turns := rest }) := by
  rw [step_write ht, hostWrite, if_pos ha]
  exact presentCommand_busy (s := { s with turns := rest }) hb v

/-- A busy block drops a write to a target that an idle one takes. -/
theorem step_write_busy {x : Target} {write : State → State} (hb : s.busy = true) (ht : s.turns = .write a v :: rest)
    (ha : targetOf a = x) (hx : x ≠ .csr .cmd) (hw : ∀ s, writeTarget x v s = unlessBusy write s) :
    step s = .next (raiseError .writeWhileBusy { s with turns := rest }) := by
  have hb' : ({ s with turns := rest } : State).busy = true := hb
  rw [step_write_target ht ha hx, hw, unlessBusy_busy write hb']

end

/-- Settles O28: each of the four kinds of target has its own answer of a busy block. -/
theorem writesWhileBusyAreDropped : Obligations.WritesWhileBusyAreDropped := by
  intro s rest a v hb ht
  refine ⟨fun ha => ?_, step_write_cmd_busy hb ht, fun ha => step_write_target ht ha nofun, fun ha => ?_⟩
  · rcases ha with ha | ha | ha | ⟨p, ha⟩ | ⟨k, ha⟩ <;> exact step_write_busy hb ht ha nofun fun _ => rfl
  · obtain ⟨hctrl, hframe, hlen, hpixel, hpayload, hcmd, hstatus⟩ := ha
    refine step_write_readOnly ht ?_
    unfold Target.Writable
    split
    · exact absurd ‹_› hctrl
    · exact absurd ‹_› hcmd
    · exact absurd ‹_› hstatus
    · exact absurd ‹_› hframe
    · exact absurd ‹_› hlen
    · exact absurd ‹_› (hpixel _)
    · exact absurd ‹_› (hpayload _)
    · rfl

end Sys2Proof.Machine
end

section
/-! PROOFS. The host's turns leave a running command alone (20_memory.md R81, R82, 43_control.md R182 to R184): they are
answered and keep what `State.settled` compares, which is all that the completion looks at. -/

namespace Sys2Proof.Machine

/-! ### One turn -/

theorem step_tick {s : State} {rest : List Turn} (ht : s.turns = .tick :: rest) :
    step s = .next (tick { s with turns := rest }) := by
  unfold step; rw [ht]; rfl

/-- A host write to a busy block is answered, and leaves all that `State.settled` compares. -/
theorem hostWrite_busy {s : State} (hb : s.busy = true) (a : Addr) (v : Word) :
    ∃ t, hostWrite a v s = .next t ∧ t.turns = s.turns ∧ t.settled = s.settled := by
  unfold hostWrite
  split
  · exact ⟨_, presentCommand_busy hb v, rfl, rfl⟩
  · refine ⟨_, rfl, ?_⟩
    rcases writeTarget_cases (targetOf a) v s with e | e | ⟨_, e⟩ | ⟨hi, _⟩
    · rw [e]; exact ⟨rfl, rfl⟩
    · rw [e]; exact ⟨rfl, rfl⟩
    · rw [e]; exact ⟨rfl, rfl⟩
    · exact absurd (hb.symm.trans (busy_of_idle s hi)) (by decide)

/-- A turn of the host while a command runs is answered, and leaves all that `State.settled` compares. -/
theorem step_hostTurn {s : State} {x : Turn} {rest : List Turn} (hb : s.busy = true) (ht : s.turns = x :: rest)
    (htick : x ≠ .tick) (hreset : x ≠ .reset) :
    ∃ t, step s = .next t ∧ t.turns = rest ∧ t.settled = s.settled := by
  cases x with
  | tick => exact absurd rfl htick
  | reset => exact absurd rfl hreset
  | read a => exact ⟨_, step_read ht, rfl, rfl⟩
  | write a v =>
    rw [step_write ht]
    exact hostWrite_busy (s := { s with turns := rest }) hb a v

/-! ### The run -/

/-- A completion looks only at what `State.settled` compares, SEQ apart. -/
theorem settled_complete_congr (snap : Snapshot) {s t : State} (q : Seq)
    (h : t.settled = { s with seq := q }.settled) : (complete snap t).settled = (complete snap s).settled := by
  have settle (u : State) (q : Seq) :
      (complete snap u).settled = (complete snap { u with seq := q }.settled).settled := by
    cases snap <;> rfl
  rw [settle t t.seq, settle s q, ← h]

/-- The last of `n + 1` steps is taken where the first `n` lead. -/
theorem run_then_step {M : Host.Core} {n : Nat} {s v : M.State} (h : M.run n s = .next v) :
    M.run (n + 1) s = M.step v := by
  induction n generalizing s with
  | zero =>
    cases h
    simp only [Host.Core.run]
    cases M.step v <;> rfl
  | succ n ih =>
    rw [Host.Core.run] at h ⊢
    cases hs : M.step s with
    | next t => rw [hs] at h; exact ih h
    | fault | refused => rw [hs] at h; cases h

/-- The host's turns and all ticks but the last leave the command running with one tick left, all else that
`State.settled` compares as it was. -/
theorem run_hostTurns {snap : Snapshot} (ts : List Turn) {s : State} {k : Nat} (hs : s.seq = .run snap k)
    (ht : s.turns = ts ++ [.tick]) (hreset : Turn.reset ∉ ts) (hk : ts.count .tick + 1 = k) :
    ∃ v : State, Sys2Proof.core.run ts.length s = .next v ∧ v.turns = [.tick]
      ∧ v.settled = { s with seq := .run snap 1 }.settled := by
  induction ts generalizing s k with
  | nil =>
    have hone : s = { s with seq := .run snap 1 } := by
      cases s
      cases hk
      cases hs
      rfl
    exact ⟨s, run_zero s, ht, congrArg State.settled hone⟩
  | cons x ts ih =>
    have hreset' := List.not_mem_of_not_mem_cons hreset
    by_cases hx : x = .tick
    · subst hx
      rw [List.count_cons_self] at hk
      have hstep : step s = .next { s with turns := ts ++ [.tick], seq := .run snap (k - 1) } := by
        rw [step_tick ht]
        exact congrArg _ (tick_more hs (by omega))
      rw [List.length_cons, run_succ _ hstep]
      exact ih rfl rfl hreset' (by omega)
    · rw [List.count_cons_of_ne hx] at hk
      obtain ⟨t, hstep, hturns, hsettled⟩ :=
        step_hostTurn (busy_of_run s hs) ht hx fun e => hreset (e ▸ List.mem_cons_self)
      have hseq : t.seq = .run snap k := (congrArg State.seq hsettled).trans hs
      obtain ⟨v, hrun, hv, hsettled'⟩ := ih hseq hturns hreset' hk
      refine ⟨v, ?_, hv, hsettled'.trans ?_⟩
      · rw [List.length_cons, run_succ _ hstep, hrun]
      · exact congrArg (fun u : State => { u with seq := .run snap 1 }) hsettled

/-- Settles O50: by `run_hostTurns` the completion meets what it would have met at first. -/
theorem hostTurnsDoNotDisturbARunningCommand : Obligations.HostTurnsDoNotDisturbARunningCommand := by
  intro s snap k ts hs hreset hk
  obtain ⟨v, hrun, hturns, hsettled⟩ := run_hostTurns (s := { s with turns := ts ++ [.tick] }) ts hs rfl hreset hk
  have hseq : v.seq = .run snap 1 := congrArg State.seq hsettled
  have hstep : step v = .next (complete snap { v with turns := [] }) :=
    (step_tick hturns).trans (congrArg _ (tick_last hseq (le_refl 1)))
  have hlast := (run_then_step hrun).trans hstep
  exact ⟨⟨v, hrun, busy_of_run v hseq⟩, _, hlast, busy_complete snap _, complete_done snap _,
    settled_complete_congr snap _ hsettled⟩

end Sys2Proof.Machine
end

section
/-! PROOFS. Which words the decoder takes and which it rejects (30_encoding.md R90 to R93). -/

namespace Sys2Proof.Machine

/-! ### Words of the opcode map -/

/-- Settles O1: each command's word decodes to it, and a word that decodes is its command's word. -/
theorem decodeAcceptsExactlyTheOpcodeMap : Obligations.DecodeAcceptsExactlyTheOpcodeMap :=
  ⟨⟨rfl, rfl, rfl, rfl, rfl, rfl, rfl⟩, fun _ i => ⟨eq_encode_of_decodeWord, fun hw => hw ▸ decodeWord_encode i⟩⟩

/-! ### Words beside it -/

theorem decodeWord_of_rsvd {w : Word} (h : w.extractLsb' 4 28 ≠ 0) : decodeWord w = .error .reservedBits := if_neg h

theorem commandOfOp_reserved {op : BitVec 4} (h : 6 ≤ op.toNat ∧ op.toNat ≤ 14) : commandOfOp op = none := by
  revert op
  decide

theorem decodeWord_of_reserved_op {w : Word} (hr : w.extractLsb' 4 28 = 0)
    (hop : 6 ≤ (w.extractLsb' 0 4).toNat ∧ (w.extractLsb' 0 4).toNat ≤ 14) : decodeWord w = .error .reservedOp := by
  have hrsvd : (splitWord w).rsvd = 0 := hr
  have hnone : commandOfOp (splitWord w).op = none := commandOfOp_reserved hop
  rw [decodeWord, if_pos hrsvd, hnone]

/-- A row of the opcode table is one whole word (30_encoding.md R90). -/
theorem decodeTableWord_toNat (w : Word) : decodeTableWord 32 w.toNat = (decodeWord w).toOption := by
  rw [decodeTableWord, Nat.mod_eq_of_lt w.isLt, BitVec.ofNat_toNat, BitVec.setWidth_eq]
  cases decodeWord w <;> rfl

theorem decodeTableWord_encode (i : Instr) : decodeTableWord 32 (encode i).toNat = some i := by
  rw [decodeTableWord_toNat, decodeWord_encode]; rfl

theorem decodeTableWord_of_error {w : Word} {r : Rejection} (h : decodeWord w = .error r) :
    decodeTableWord 32 w.toNat = none := by
  rw [decodeTableWord_toNat, h]; rfl

/-- Settles O2: three words of commands, a reserved OP, and RSVD set at each of its ends. -/
theorem writtenOutWordsDecode : Obligations.WrittenOutWordsDecode :=
  ⟨decodeTableWord_encode .nop, decodeTableWord_encode .buildPayload, decodeTableWord_encode .softReset,
    decodeTableWord_of_error (w := 0x00000006) (decodeWord_of_reserved_op (by decide) (by decide)),
    decodeTableWord_of_error (w := 0x00000011) (decodeWord_of_rsvd (by decide)),
    decodeTableWord_of_error (w := 0x80000001) (decodeWord_of_rsvd (by decide))⟩

/-- A word that does not decode is recorded as ILLEGAL_CMD by an idle block (30_encoding.md R92, R93). -/
theorem step_write_illegal_idle {s : State} {rest : List Turn} {a : Addr} {w : Word} {r : Rejection}
    (hi : s.busy = false) (ht : s.turns = .write a w :: rest) (ha : targetOf a = .csr .cmd)
    (hd : decodeWord w = .error r) : step s = .next (raiseError .illegalCmd { s with turns := rest }) := by
  have hi' : ({ s with turns := rest } : State).busy = false := hi
  rw [step_write ht, hostWrite, if_pos ha, presentCommand, hd]
  simp only [rejectWord, hi', Bool.false_eq_true, if_false]

/-- Settles O3: an idle block decodes the word and rejects it, a busy one rejects every word. -/
theorem illegalCommandWordsAreRejected : Obligations.IllegalCommandWordsAreRejected := by
  intro s rest a w ht ha hw
  refine ⟨fun hi => ?_, fun hb => step_write_cmd_busy hb ht ha⟩
  rcases hw with hrsvd | ⟨hrsvd, hop⟩
  · exact step_write_illegal_idle hi ht ha (decodeWord_of_rsvd hrsvd)
  · exact step_write_illegal_idle hi ht ha (decodeWord_of_reserved_op hrsvd hop)

end Sys2Proof.Machine
end

section
/-! PROOFS. The host's programs: polling STATUS (30_encoding.md R97, R98) and reading a frame out (R99). -/

namespace Sys2Proof.Machine

/-! ### Polling -/

/-- A POLL takes one host read, of a block whose list of turns plays no part, and stays until the word is there. -/
theorem hostTurn_poll (b : State) (off : Addr) (mask val : Word) (rest : List Stmt) (vars : List (String × Word)) :
    HostRun.hostTurn { block := b, prog := .poll off mask val :: rest, vars := vars } =
      .next { block := hostRead off { b with turns := [] },
              prog := if b.memRead off &&& mask = val then rest else .poll off mask val :: rest, vars := vars } := by
  have hread : hostAccess (.read off) b = .next (hostRead off { b with turns := [] }) := step_read rfl
  have hport : (hostRead off { b with turns := [] }).rdata = b.memRead off := rfl
  simp only [HostRun.hostTurn, hread, hport]
  split <;> rfl

theorem and_one_eq_zero_iff (v : Word) : v &&& 1 = 0 ↔ v.getLsbD 0 = false := by
  have hbit : v &&& 1 = (BitVec.ofBool (v.getLsbD 0)).setWidth 32 := BitVec.and_one_eq_setWidth_ofBool_getLsbD
  rw [hbit]
  cases v.getLsbD 0 <;> decide

/-- Settles O32: `WAIT` polls bit 0 of STATUS, which reads BUSY whatever runs. -/
theorem waitMovesOnExactlyWhenNotBusy : Obligations.WaitMovesOnExactlyWhenNotBusy := by
  intro b rest vars
  refine ⟨hostRead 0x000C { b with turns := [] }, ?_, rfl⟩
  have hpoll : b.memRead 0x000C &&& 1 = 0 ↔ b.busy = false := by
    rw [and_one_eq_zero_iff, memRead_status_busy]
  rw [waitStmts, List.singleton_append, hostTurn_poll]
  cases hb : b.busy with
  | false => rw [if_pos (hpoll.2 hb)]; rfl
  | true => rw [if_neg fun h => absurd (hb.symm.trans (hpoll.1 h)) (by decide)]; rfl

/-! ### Reading words out -/

/-- Each word read out is what its address reads of the same block, the port and the draws apart
(20_memory.md R74). -/
theorem getElem?_readWords {as : List Addr} {i : Nat} {a : Addr} (s : State) (h : as[i]? = some a) :
    ∃ t : State, t = { s with rdata := t.rdata, draws := t.draws }
      ∧ (readWords as s).1[i]? = some (t.memRead a) := by
  induction as generalizing s i with
  | nil => cases h
  | cons a' as ih =>
    cases i with
    | zero =>
      cases h
      exact ⟨s, rfl, rfl⟩
    | succ i =>
      obtain ⟨t, ht, hword⟩ := ih (hostRead a' s) h
      exact ⟨t, ht, hword⟩

/-- Byte `4k + j` of a list of words is lane `j` of word `k` (20_memory.md R64). -/
theorem getElem?_flatMap_bytesOfWord (ws : List Word) (k : Nat) {j : Nat} (hj : j < 4) :
    (ws.flatMap bytesOfWord)[4 * k + j]? = ws[k]?.map (byteOfWord · j) := by
  induction ws generalizing k with
  | nil => rfl
  | cons w ws ih =>
    have hlen : (bytesOfWord w).length = 4 := rfl
    rw [List.flatMap_cons]
    cases k with
    | zero =>
      rw [List.getElem?_append_left (by omega)]
      interval_cases j <;> rfl
    | succ k =>
      rw [List.getElem?_append_right (by omega), hlen, (by omega : 4 * (k + 1) + j - 4 = 4 * k + j), ih,
        List.getElem?_cons_succ]

/-! ### Reading a frame out -/

/-- The host reads how many bytes to read out (30_encoding.md R99). -/
theorem extractLsb'_memRead_outLen {s : State} (hi : s.seq = .idle) :
    (s.memRead 0x0030).extractLsb' 0 14 = s.outLen := by
  have hread : s.memRead 0x0030 = s.outLen.setWidth 32 := memRead_csr_idle (r := .outLen) hi rfl
  apply BitVec.eq_of_toNat_eq
  rw [hread, BitVec.extractLsb'_toNat, BitVec.toNat_setWidth_of_le (by decide), Nat.shiftRight_zero,
    Nat.mod_eq_of_lt s.outLen.isLt]

/-- The addresses of the first `m` words of OUT_MEM. -/
def outAddrs (m : Nat) : List Addr := (List.range m).map fun k => BitVec.ofNat 16 (outBase + 4 * k)

theorem readFrameOut_eq {s : State} (hi : s.seq = .idle) :
    readFrameOut s =
      ((readWords (outAddrs ((s.outLen.toNat + 3) / 4)) (hostRead 0x0030 s)).1.flatMap bytesOfWord).take
        s.outLen.toNat := by
  have hlen : ((hostRead 0x0030 s).rdata.extractLsb' 0 14) = s.outLen := extractLsb'_memRead_outLen hi
  simp only [readFrameOut, hlen, outAddrs]

/-- Below OUT_LEN the words read out hold the bytes that OUT_MEM holds. -/
theorem getElem?_outWords {s : State} (hi : s.seq = .idle) {m n : Nat} {b : Byte} (hn : n < s.outLen.toNat)
    (hm : n / 4 < m) (hk : n / 4 < 2048) (h : s.mem.read (outBase + n) = some b) :
    ((readWords (outAddrs m) s).1.flatMap bytesOfWord)[n]? = some b := by
  have hj : n % 4 < 4 := Nat.mod_lt _ (by decide)
  have hsplit : 4 * (n / 4) + n % 4 = n := Nat.div_add_mod n 4
  have haddr : (outAddrs m)[n / 4]? = some (BitVec.ofNat 16 (outBase + 4 * (n / 4))) := by
    rw [outAddrs, List.getElem?_map, List.getElem?_range hm]; rfl
  obtain ⟨t, ht, hword⟩ := getElem?_readWords s haddr
  have hseq : t.seq = .idle := by rw [ht]; exact hi
  have houtLen : t.outLen = s.outLen := by rw [ht]
  have hmem : t.mem = s.mem := by rw [ht]
  have hpend : t.pendingLen Snapshot.newOutLen = 0 := pendingLen_idle hseq _
  have hbyte : byteOfWord (t.memRead (BitVec.ofNat 16 (outBase + 4 * (n / 4)))) (n % 4) = b := by
    refine byteOfWord_memRead_out hk hj ?_ (hpend.trans_le (Nat.zero_le _)) ?_
    · rw [houtLen, hsplit]; exact hn
    · rw [hmem, Nat.add_assoc, hsplit]; exact h
  rw [← hsplit, getElem?_flatMap_bytesOfWord _ _ hj, hword, Option.map_some, hbyte]

/-- Settles O33: byte by byte; a frame of a legal payload fits OUT_MEM. -/
theorem hostReadsOutExactlyTheFrame : Obligations.HostReadsOutExactlyTheFrame := by
  intro s cmd payload stuff hi hframe
  obtain ⟨hpayload, hlen, _, _, hheld⟩ := hframe
  have hfits := length_frameBytes_le cmd payload stuff
  simp only [Config.payloadMax] at hpayload
  rw [readFrameOut_eq hi]
  refine List.ext_getElem? fun n => ?_
  by_cases hn : n < s.outLen.toNat
  · have hn' : n < (frameBytes cmd payload stuff).length := hlen ▸ hn
    have hbyte := hheld n hn'
    rw [List.getElem?_eq_getElem hn'] at hbyte ⊢
    rw [List.getElem?_take_of_lt hn]
    exact getElem?_outWords (s := hostRead 0x0030 s) hi hn (by omega) (by omega) hbyte
  · rw [List.getElem?_take_eq_none (by omega), List.getElem?_eq_none (by omega)]

end Sys2Proof.Machine
end

section
/-! PROOFS. The quantizer's pure functions (40_quantizer.md R111 to R114): the palette and indices that Scan builds, the
colours that Reduce takes, and which scan Quantize answers. -/

namespace Sys2Proof.Machine

/-! ### Scan -/

theorem scan_append_singleton (g : List Colour) (c : Colour) : scan (g ++ [c]) = scanStep (scan g) c :=
  List.foldl_append

theorem scanStep_of_mem {st : List Colour × List Nat} {c : Colour} (h : c ∈ st.1) :
    scanStep st c = (st.1, st.2 ++ [st.1.idxOf c]) := if_pos h

theorem scanStep_of_not_mem {st : List Colour × List Nat} {c : Colour} (h : c ∉ st.1) :
    scanStep st c = (st.1 ++ [c], st.2 ++ [st.1.length]) := if_neg h

/-- `p` lists colours of `g` in the order in which `g` first shows them. -/
def FirstSeenOrder (g p : List Colour) : Prop := p.Pairwise (fun a b => g.idxOf a < g.idxOf b)

/-- Colours that `g` shows keep their order when another one follows. -/
theorem FirstSeenOrder.append_singleton {g p : List Colour} (h : FirstSeenOrder g p) (hp : ∀ a ∈ p, a ∈ g)
    (c : Colour) : FirstSeenOrder (g ++ [c]) p :=
  h.imp_of_mem fun ha hb hab => by
    rwa [List.idxOf_append_of_mem (hp _ ha), List.idxOf_append_of_mem (hp _ hb)]

/-- A colour that `g` does not show comes after all that it shows. -/
theorem FirstSeenOrder.concat {g p : List Colour} (h : FirstSeenOrder g p) (hp : ∀ a ∈ p, a ∈ g) {c : Colour}
    (hc : c ∉ g) : FirstSeenOrder (g ++ [c]) (p ++ [c]) := by
  refine List.pairwise_append.2 ⟨h.append_singleton hp c, List.pairwise_singleton _ c, fun a ha b hb => ?_⟩
  rw [List.mem_singleton.1 hb, List.idxOf_append_of_mem (hp a ha), List.idxOf_append_of_notMem hc]
  exact (List.idxOf_lt_length_of_mem (hp a ha)).trans_le (Nat.le_add_right _ _)

/-- The colour that `g` shows first is the first of `p`. -/
theorem FirstSeenOrder.idxOf_head {c : Colour} {g p : List Colour} (h : FirstSeenOrder (c :: g) p) (hc : c ∈ p) :
    p.idxOf c = 0 := by
  cases p with
  | nil => cases hc
  | cons a p =>
    rcases List.mem_cons.1 hc with rfl | hc
    · exact List.idxOf_cons_self
    · have hlt := List.rel_of_pairwise_cons h hc
      rw [List.idxOf_cons_self] at hlt
      exact absurd hlt (Nat.not_lt_zero _)

/-- What a scan is after the colours `g`, beside `Scanned`: the palette has every colour of `g` in first-seen order, and
each index is its colour's place (40_quantizer.md R111). -/
structure FirstSeen (g : List Colour) (st : List Colour × List Nat) : Prop where
  mem_iff : ∀ c, c ∈ st.1 ↔ c ∈ g
  order : FirstSeenOrder g st.1
  indices : st.2 = g.map st.1.idxOf

theorem FirstSeen.step {g : List Colour} {st : List Colour × List Nat} (h : FirstSeen g st) (c : Colour) :
    FirstSeen (g ++ [c]) (scanStep st c) := by
  obtain ⟨mem_iff, order, indices⟩ := h
  have hp : ∀ a ∈ st.1, a ∈ g := fun a => (mem_iff a).1
  by_cases hc : c ∈ st.1
  · rw [scanStep_of_mem hc]
    refine ⟨fun d => ?_, order.append_singleton hp c, by rw [indices, List.map_append, List.map_singleton]⟩
    rw [List.mem_append, mem_iff, List.mem_singleton, or_iff_left_of_imp]
    rintro rfl
    exact hp d hc
  · rw [scanStep_of_not_mem hc]
    refine ⟨fun d => by rw [List.mem_append, List.mem_append, mem_iff],
      order.concat hp (fun h => hc ((mem_iff c).2 h)), ?_⟩
    have hplace : ∀ a ∈ g, st.1.idxOf a = (st.1 ++ [c]).idxOf a := fun a ha =>
      (List.idxOf_append_of_mem ((mem_iff a).2 ha)).symm
    have hlast : (st.1 ++ [c]).idxOf c = st.1.length := by
      rw [List.idxOf_append_of_notMem hc, List.idxOf_cons_self, Nat.add_zero]
    rw [indices, List.map_append, List.map_singleton, hlast, List.map_congr_left hplace]

theorem scan_firstSeen (g : List Colour) : FirstSeen g (scan g) := by
  induction g using List.reverseRecOn with
  | nil => exact ⟨fun _ => Iff.rfl, List.Pairwise.nil, rfl⟩
  | append_singleton g c ih =>
    rw [scan_append_singleton]
    exact ih.step c

theorem length_scan_pos {g : List Colour} (hg : g ≠ []) : 1 ≤ (scan g).1.length := by
  obtain ⟨c, hc⟩ := List.exists_mem_of_ne_nil g hg
  exact List.length_pos_of_mem (((scan_firstSeen g).mem_iff c).2 hc)

theorem length_scan_le (g : List Colour) : (scan g).1.length ≤ g.length :=
  (List.subperm_of_subset (scan_scanned g).nodup (scan_scanned g).seen).length_le

/-- Settles O36: each pixel of the scan keeps `FirstSeen`, and the facts about single places follow from it. -/
theorem scanBuildsFirstSeenPalette : Obligations.ScanBuildsFirstSeenPalette := by
  intro g hg
  have h := scan_firstSeen g
  refine ⟨(scan_scanned g).nodup, h.mem_iff, h.order, h.indices, length_scan_pos hg, length_scan_le g,
    fun n hn => ?_, ?_⟩
  · have hlt : (scan g).1.idxOf g[n] < (scan g).1.length :=
      List.idxOf_lt_length_of_mem ((h.mem_iff _).2 (List.getElem_mem hn))
    refine ⟨(scan g).1.idxOf g[n], ?_, hlt, ?_⟩
    · rw [h.indices, List.getElem?_map, List.getElem?_eq_getElem hn, Option.map_some]
    · rw [List.getElem?_eq_getElem hlt, List.getElem?_eq_getElem hn, List.getElem_idxOf]
  · cases g with
    | nil => exact absurd rfl hg
    | cons c g =>
      have hc : c ∈ (scan (c :: g)).1 := (h.mem_iff c).2 List.mem_cons_self
      have hplace : (scan (c :: g)).1.idxOf c = 0 := h.order.idxOf_head hc
      refine ⟨?_, by rw [h.indices, List.map_cons, List.getElem?_cons_zero, hplace]⟩
      rw [← hplace, List.getElem?_idxOf hc, hplace, List.getElem?_cons_zero]

/-! ### Reduce -/

/-- The eight bits that Reduce keeps, packed. -/
def keptBits (c : Colour) : Byte := c.extractLsb' 21 3 ++ (c.extractLsb' 13 3 ++ c.extractLsb' 6 2)

theorem reduce_eq_spreadBits_keptBits (c : Colour) : reduce c = spreadBits (keptBits c) := reduce_eq_spreadBits c

theorem keptBits_spreadBits (k : Byte) : keptBits (spreadBits k) = k := by
  apply BitVec.eq_of_getLsbD_eq
  intro i hi
  simp only [keptBits, spreadBits, BitVec.getLsbD_append, BitVec.getLsbD_extractLsb']
  interval_cases i <;> simp

theorem spreadBits_injective : Function.Injective spreadBits := Function.LeftInverse.injective keptBits_spreadBits

theorem reduce_spreadBits (k : Byte) : reduce (spreadBits k) = spreadBits k := by
  rw [reduce_eq_spreadBits_keptBits, keptBits_spreadBits]

theorem nodup_reducedColours : reducedColours.Nodup := by
  refine List.nodup_range.map_on fun i hi j hj h => ?_
  have hbits := congrArg BitVec.toNat (spreadBits_injective h)
  rwa [BitVec.toNat_ofNat, BitVec.toNat_ofNat, Nat.mod_eq_of_lt (List.mem_range.1 hi),
    Nat.mod_eq_of_lt (List.mem_range.1 hj)] at hbits

theorem reduce_of_mem_reducedColours {v : Colour} (h : v ∈ reducedColours) : reduce v = v := by
  obtain ⟨k, _, rfl⟩ := List.mem_map.1 h
  exact reduce_spreadBits _

/-- Settles O37: the mask bit field by bit field; `reducedColours` lists the values, one for each byte of kept bits. -/
theorem reduceKeepsTopBitsInPlace : Obligations.ReduceKeepsTopBitsInPlace := by
  refine ⟨fun c => ⟨rfl, BitVec.extractLsb'_and, BitVec.extractLsb'_and, BitVec.extractLsb'_and, ?_⟩,
    reducedColours, nodup_reducedColours, ?_, reduce_mem_reducedColours, fun v hv => ⟨v, reduce_of_mem_reducedColours hv⟩⟩
  · exact reduce_of_mem_reducedColours (reduce_mem_reducedColours c)
  · rw [reducedColours, List.length_map, List.length_range]

/-! ### Quantize -/

theorem quantizeGrid_of_le {g : List Colour} (h : (scan g).1.length ≤ 256) :
    quantizeGrid g = ⟨(scan g).1, (scan g).2, false⟩ := if_neg (not_lt.2 h)

theorem quantizeGrid_of_gt {g : List Colour} (h : 256 < (scan g).1.length) :
    quantizeGrid g = ⟨(scan (g.map reduce)).1, (scan (g.map reduce)).2, true⟩ := if_pos h

theorem length_palette_quantizeGrid_pos {g : List Colour} (hg : g ≠ []) : 1 ≤ (quantizeGrid g).palette.length := by
  rcases Nat.lt_or_ge 256 (scan g).1.length with h | h
  · rw [quantizeGrid_of_gt h]
    exact length_scan_pos fun hnil => hg (List.map_eq_nil_iff.1 hnil)
  · rw [quantizeGrid_of_le h]
    exact length_scan_pos hg

/-- Settles O38: 256 is where the two branches of `quantizeGrid` meet. -/
theorem quantizeLeavesAtMost256Colours : Obligations.QuantizeLeavesAtMost256Colours := by
  intro g hg
  refine ⟨length_palette_quantizeGrid_pos hg, length_palette_quantizeGrid_le g, fun h => ?_, fun h => ?_⟩
  · rw [quantizeGrid_of_le h]; exact ⟨rfl, rfl⟩
  · rw [quantizeGrid_of_gt h]; exact ⟨rfl, rfl⟩

end Sys2Proof.Machine
end

section
/-! PROOFS. QUANTIZE from its CMD write to its completion (40_quantizer.md R116 to R118). -/

namespace Sys2Proof.Machine

/-! ### From acceptance to completion -/

/-- With no turn waiting, an accepted command completes after its latency (43_control.md R184). -/
theorem ticksTo_accept (snap : Snapshot) {s : State} (ht : s.turns = []) :
    TicksTo (latency snap s.draws) (accept snap s) (complete snap (accept snap s)) :=
  ticksTo_complete snap _ _ rfl ht (latency_pos snap s.draws)

theorem exec_quantize_accept {s : State} (hi : s.seq = .idle) (hw : s.PixelsWritten) :
    exec .quantize s = .next (accept (.quantize s.samplePixels) s) := by
  have hmissing : s.firstUnwrittenPixel.map (Fault.unwrittenPixel .quantize) = none := by
    rw [(firstUnwrittenPixel_eq_none s).2 hw, Option.map_none]
  rw [exec, execQuantize, hmissing, issue_accept hi]

theorem complete_quantize_eq_finish {pixels : List Colour} {q : Quantized} (hq : quantizeGrid pixels = q) (s : State) :
    complete (.quantize pixels) s = (applyQuantized q s).finish := by subst hq; rfl

/-! ### What the results hold -/

section
variable {q : Quantized} (s : State)

/-- PAL_COUNT has room for the number of colours (10_state.md R42). -/
theorem Quantized.Fits.toNat_palCount (hf : q.Fits) : (BitVec.ofNat 9 q.palette.length).toNat = q.palette.length := by
  have hle := hf.palette_le
  rw [BitVec.toNat_ofNat, Nat.mod_eq_of_lt (by omega)]

theorem holdsColours_applyQuantized (hf : q.Fits) :
    (applyQuantized q s).mem.HoldsColours paletteBase q.palette :=
  (holds_storePalette s.mem q.palette hf.palette_le).congr (size := 256)
    (Memory.SameOutside.sameOn (same_storeIndices _ _) (by decide)) hf.palette_le

/-- PALETTE_MEM beyond the palette has no defined value (40_quantizer.md R117). -/
theorem colour?_applyQuantized_eq_none {i : Nat} (h1 : q.palette.length ≤ i) (h2 : i < 256) :
    (applyQuantized q s).mem.colour? (paletteBase + 4 * i) = none := by
  have same : (s.mem.storePalette q.palette).SameOn (applyQuantized q s).mem paletteBase (paletteBase + 1024) :=
    Memory.SameOutside.sameOn (same_storeIndices _ _) (by decide)
  rw [colour?_congr fun j hj => same _ (by omega) (by omega), none_storePalette _ _ h1 h2]

theorem holdsEntries_applyQuantized (hf : q.Fits) :
    (applyQuantized q s).mem.HoldsEntries indexBase (indexBytes q.indices) :=
  holds_storeIndices _ _ hf.length_indexBytes.le

theorem read_applyQuantized_outside {a : Nat} (hp : ¬(paletteBase ≤ a ∧ a < paletteBase + 1024))
    (hi : ¬(indexBase ≤ a ∧ a < indexBase + 4096)) : (applyQuantized q s).mem.read a = s.mem.read a :=
  (same_storeIndices _ _ a hi).trans (same_storePalette _ _ a hp)

end

/-- Settles O6: accepted because no pixel is missing, and the completion stores a quantization that fits. -/
theorem quantizeCompletesWithPaletteAndIndices : Obligations.QuantizeCompletesWithPaletteAndIndices := by
  intro s hready hw
  obtain ⟨hi, ht⟩ := hready
  have hf := fits_samplePixels s
  obtain ⟨q, hq⟩ : ∃ q, quantizeGrid s.samplePixels = q := ⟨_, rfl⟩
  dsimp only
  rw [hq] at hf ⊢
  have hticks := ticksTo_accept (.quantize s.samplePixels) ht
  rw [complete_quantize_eq_finish hq] at hticks
  refine ⟨_, _, latency_pos _ s.draws, exec_quantize_accept hi hw, hticks, ?_, hf.toNat_palCount,
    holdsColours_applyQuantized _ hf, fun i => colour?_applyQuantized_eq_none _, hf.length_indices,
    holdsEntries_applyQuantized _ hf, fun a => read_applyQuantized_outside (accept (.quantize s.samplePixels) s)⟩
  rw [hi]
  rfl

end Sys2Proof.Machine
end

section
/-! PROOFS. The packer's pure functions (41_packer.md R131, R133 to R136): BitWidth is a least width, and Pack writes one
little-endian bit string, which Unpack reads back. -/

namespace Sys2Proof.Machine

/-! ### BitWidth -/

theorem le_bitWidthFrom (fuel w n : Nat) : w ≤ bitWidthFrom fuel w n := by
  induction fuel generalizing w with
  | zero => exact le_rfl
  | succ fuel ih =>
    unfold bitWidthFrom
    split
    · exact le_rfl
    · exact (Nat.le_succ w).trans (ih (w + 1))

/-- Enough fuel reaches a sufficient width. -/
theorem le_two_pow_bitWidthFrom {fuel w n : Nat} (h : n ≤ 2 ^ (w + fuel)) : n ≤ 2 ^ bitWidthFrom fuel w n := by
  induction fuel generalizing w with
  | zero => exact h
  | succ fuel ih =>
    unfold bitWidthFrom
    split
    · assumption
    · exact ih (by rwa [Nat.add_right_comm])

theorem one_le_bitWidthOf (n : Nat) : 1 ≤ bitWidthOf n := le_bitWidthFrom n 1 n

theorem le_two_pow_bitWidthOf (n : Nat) : n ≤ 2 ^ bitWidthOf n :=
  le_two_pow_bitWidthFrom <| Nat.lt_two_pow_self.le.trans (Nat.pow_le_pow_right (by decide) (Nat.le_add_left n 1))

theorem bitWidthOf_le_of_le_two_pow {n w : Nat} (hw : 1 ≤ w) (h : n ≤ 2 ^ w) : bitWidthOf n ≤ w :=
  bitWidthFrom_le n 1 w n hw h

theorem bitWidthOf_eq_max_clog (n : Nat) : bitWidthOf n = max 1 (Nat.clog 2 n) := by
  have hclog : n ≤ 2 ^ max 1 (Nat.clog 2 n) :=
    (Nat.le_pow_clog (by decide) n).trans (Nat.pow_le_pow_right (by decide) (le_max_right _ _))
  exact le_antisymm (bitWidthOf_le_of_le_two_pow (le_max_left _ _) hclog)
    (max_le (one_le_bitWidthOf n) (Nat.clog_le_of_le_pow (le_two_pow_bitWidthOf n)))

/-- Settles O39: the search starts at 1, stops at the first sufficient width, and its fuel takes it that far. -/
theorem bitWidthIsTheLeastSufficientWidth : Obligations.BitWidthIsTheLeastSufficientWidth := fun n _ =>
  ⟨bitWidthOf_eq_max_clog n, one_le_bitWidthOf n, le_two_pow_bitWidthOf n, fun _ => bitWidthOf_le_of_le_two_pow,
    bitWidthOf_le n⟩

/-! ### The length of a packing -/

/-- Settles O41: the length of any packing, at 1024 indices. -/
theorem packLengthIsCeilingOfBits : Obligations.PackLengthIsCeilingOfBits := fun is w _ _ =>
  ⟨length_packIndices is w, fun h => by rw [length_packIndices, h]; omega⟩

/-! ### The bits of a stream of bytes -/

theorem streamBit_nil (k : Nat) : streamBit [] k = false := BitVec.getLsbD_zero

theorem streamBit_cons (b : Byte) (bs : List Byte) (k : Nat) :
    streamBit (b :: bs) k = if k < 8 then b.getLsbD k else streamBit bs (k - 8) := by
  unfold streamBit
  split
  · next h => rw [Nat.div_eq_of_lt h, Nat.mod_eq_of_lt h, List.getElem?_cons_zero, Option.getD_some]
  · next h =>
    obtain ⟨m, rfl⟩ := Nat.exists_eq_add_of_le' (not_lt.1 h)
    rw [Nat.add_div_right m (by decide), Nat.add_mod_right, Nat.add_sub_cancel, List.getElem?_cons_succ]

/-- The emitted bytes carry the accumulator's low bits. -/
theorem streamBit_emitBytes_append (count acc : Nat) (bs : List Byte) (k : Nat) :
    streamBit (emitBytes count acc ++ bs) k =
      if k < 8 * count then acc.testBit k else streamBit bs (k - 8 * count) := by
  induction count generalizing acc k with
  | zero => rfl
  | succ count ih =>
    rw [emitBytes, List.cons_append, streamBit_cons, ih, Nat.testBit_shiftRight]
    by_cases h : k < 8
    · rw [if_pos h, if_pos (by omega), BitVec.getLsbD_ofNat, decide_eq_true h, Bool.true_and]
    · rw [if_neg h, show 8 + (k - 8) = k by omega, show k - 8 - 8 * count = k - 8 * (count + 1) by omega]
      exact if_congr (by omega) rfl rfl

/-! ### The bits of the index stream -/

/-- Bit `k` of the index stream, bit `k mod w` of field `k div w`, and 0 beyond the last field
(41_packer.md R134). -/
def fieldBit (w : Nat) (is : List Nat) (k : Nat) : Bool := ((is[k / w]?).getD 0).testBit (k % w)

theorem fieldBit_of_ge {w : Nat} {is : List Nat} {k : Nat} (hw : 1 ≤ w) (h : w * is.length ≤ k) :
    fieldBit w is k = false := by
  have hend : is.length ≤ k / w := (Nat.le_div_iff_mul_le hw).2 (by rwa [Nat.mul_comm])
  rw [fieldBit, List.getElem?_eq_none hend, Option.getD_none, Nat.zero_testBit]

theorem fieldBit_cons {w : Nat} (hw : 1 ≤ w) (i : Nat) (is : List Nat) (k : Nat) :
    fieldBit w (i :: is) k = if k < w then i.testBit k else fieldBit w is (k - w) := by
  unfold fieldBit
  split
  · next h => rw [Nat.div_eq_of_lt h, Nat.mod_eq_of_lt h, List.getElem?_cons_zero, Option.getD_some]
  · next h =>
    obtain ⟨m, rfl⟩ := Nat.exists_eq_add_of_le' (not_lt.1 h)
    rw [Nat.add_div_right m hw, Nat.add_mod_right, Nat.add_sub_cancel, List.getElem?_cons_succ]

theorem fieldBit_mul_add {w p j : Nat} (hj : j < w) {is : List Nat} (hp : p < is.length) :
    fieldBit w is (w * p + j) = is[p].testBit j := by
  have hw : 0 < w := Nat.zero_lt_of_lt hj
  rw [fieldBit, Nat.mul_add_div hw, Nat.div_eq_of_lt hj, Nat.add_zero, Nat.mul_add_mod, Nat.mod_eq_of_lt hj,
    List.getElem?_eq_getElem hp, Option.getD_some]

/-! ### The accumulator loop -/

/-- An accumulator that holds no bit beyond its first `cnt` takes in the next `w` bits above them. -/
theorem testBit_orField {acc cnt : Nat} (hacc : ∀ j, cnt ≤ j → acc.testBit j = false) (w i k : Nat) :
    (acc ||| ((i &&& (2 ^ w - 1)) <<< cnt)).testBit k =
      if k < cnt then acc.testBit k else decide (k < cnt + w) && i.testBit (k - cnt) := by
  rw [Nat.testBit_or, Nat.testBit_shiftLeft, Nat.and_two_pow_sub_one_eq_mod, Nat.testBit_mod_two_pow]
  split
  · next h => rw [decide_eq_false (not_le.2 h), Bool.false_and, Bool.or_false]
  · next h =>
    have hc : cnt ≤ k := not_lt.1 h
    rw [hacc k hc, decide_eq_true hc, Bool.false_or, Bool.true_and, decide_eq_decide.2 (Nat.sub_lt_iff_lt_add' hc)]

/-- From an accumulator that holds `cnt` bits, less than a byte, the loop writes those bits and then the fields
(41_packer.md R133, R134). -/
theorem streamBit_packGo {w : Nat} (hw : 1 ≤ w) (is : List Nat) {acc cnt : Nat} (hcnt : cnt < 8)
    (hacc : ∀ j, cnt ≤ j → acc.testBit j = false) (k : Nat) :
    streamBit (packGo w is acc cnt) k = if k < cnt then acc.testBit k else fieldBit w is (k - cnt) := by
  induction is generalizing acc cnt k with
  | nil =>
    rw [fieldBit_of_ge hw (Nat.zero_le _), packGo]
    by_cases hk : k < cnt
    · rw [if_pos (by omega), if_pos hk, streamBit_cons, if_pos (by omega), BitVec.getLsbD_ofNat,
        decide_eq_true (by omega), Bool.true_and]
    · rw [if_neg hk]
      split
      · rw [streamBit_cons, streamBit_nil, BitVec.getLsbD_ofNat, hacc k (by omega), Bool.and_false, ite_self]
      · exact streamBit_nil k
  | cons i is ih =>
    have hor := testBit_orField hacc w i
    rw [packGo, streamBit_emitBytes_append, fieldBit_cons hw]
    generalize acc ||| ((i &&& (2 ^ w - 1)) <<< cnt) = acc' at hor ⊢
    have hrest : ∀ j, (cnt + w) % 8 ≤ j → (acc' >>> (8 * ((cnt + w) / 8))).testBit j = false := fun j hj => by
      rw [Nat.testBit_shiftRight, hor, if_neg (by omega), decide_eq_false (by omega), Bool.false_and]
    rw [ih (Nat.mod_lt _ (by decide)) hrest, Nat.testBit_shiftRight]
    by_cases hk : k < cnt + w
    · have hbit : acc'.testBit k = if k < cnt then acc.testBit k else i.testBit (k - cnt) := by
        rw [hor, decide_eq_true hk, Bool.true_and]
      rw [if_pos (by omega : k - cnt < w), ← hbit]
      split
      · rfl
      · rw [if_pos (by omega), Nat.add_sub_cancel' (by omega)]
    · rw [if_neg (by omega), if_neg (by omega), if_neg (by omega), if_neg (by omega),
        show k - 8 * ((cnt + w) / 8) - (cnt + w) % 8 = k - cnt - w by omega]

/-- R134 in one equation: a packing's bits are the index stream's. -/
theorem streamBit_packIndices {w : Nat} (hw : 1 ≤ w) (is : List Nat) (k : Nat) :
    streamBit (packIndices is w) k = fieldBit w is k :=
  streamBit_packGo hw is (by decide) (fun j _ => Nat.zero_testBit j) k

/-- Settles O40: the index stream at bit `8b + t`, within the fields and beyond them. -/
theorem packIsOneLittleEndianBitString : Obligations.PackIsOneLittleEndianBitString := by
  intro is w _ hw _ b t _ _
  rw [streamBit_packIndices hw]
  exact ⟨fun _ => rfl, fieldBit_of_ge hw⟩

/-! ### Unpack -/

theorem natOfBits_congr {f g : Nat → Bool} {w : Nat} (h : ∀ j < w, f j = g j) : natOfBits f w = natOfBits g w := by
  induction w with
  | zero => rfl
  | succ w ih => rw [natOfBits, natOfBits, ih fun j hj => h j (Nat.lt_succ_of_lt hj), h w (Nat.lt_succ_self w)]

theorem natOfBits_testBit (x w : Nat) : natOfBits x.testBit w = x % 2 ^ w := by
  induction w with
  | zero => rw [natOfBits, Nat.pow_zero, Nat.mod_one]
  | succ w ih => rw [natOfBits, ih, Nat.mod_pow_succ, Nat.toNat_testBit, Nat.mul_comm]

/-- Settles O42: field `p` of the stream has the bits of index `p`, and an index below `2 ^ w` is made of them. -/
theorem unpackRecoversPackedIndices : Obligations.UnpackRecoversPackedIndices := by
  intro is w hw _ hlt
  have hfield : ∀ p (hp : p < is.length),
      natOfBits (fun j => streamBit (packIndices is w) (w * p + j)) w = is[p] := fun p hp =>
    calc natOfBits (fun j => streamBit (packIndices is w) (w * p + j)) w
      _ = natOfBits is[p].testBit w := natOfBits_congr fun j hj => by
          rw [streamBit_packIndices hw, fieldBit_mul_add hj hp]
      _ = is[p] := by rw [natOfBits_testBit, Nat.mod_eq_of_lt (hlt _ (List.getElem_mem hp))]
  refine List.ext_getElem (by rw [unpack, List.length_map, List.length_range]) fun p _ hp => ?_
  simp only [unpack, List.getElem_map, List.getElem_range, hfield p hp]

end Sys2Proof.Machine
end

section
/-! PROOFS. PACK from its CMD write to its completion (41_packer.md R138). -/

namespace Sys2Proof.Machine

theorem exec_pack_accept {s : State} (hi : s.seq = .idle) (hq : s.qvalid = true) :
    exec .pack s = .next (accept (.pack s.sampleIndices s.palCount true) s) := by
  rw [exec, execPack, packError, hq, if_pos rfl, issue_accept hi]

/-- A packing of INDEX_MEM's 1024 entries has 128 bytes for each bit of their width (41_packer.md R135). -/
theorem length_packBytes_sampleIndices (s : State) (palCount : BitVec 9) :
    (packBytes s.sampleIndices palCount).length = 128 * bitWidthOf palCount.toNat := by
  rw [packBytes, length_packIndices, List.length_map, length_sampleIndices]
  omega

/-- Settles O7: accepted because QVALID = 1, and the packing of at most 256 colours' indices fits PACK_MEM. -/
theorem packCompletesWithPackedIndices : Obligations.PackCompletesWithPackedIndices := by
  intro s hready hq hcount
  obtain ⟨hi, ht⟩ := hready
  have hw : bitWidthOf s.palCount.toNat ≤ 8 := bitWidthOf_le _ hcount
  have hlen := length_packBytes_sampleIndices s s.palCount
  have hfit : (packBytes s.sampleIndices s.palCount).length ≤ packSize := by simp only [packSize]; omega
  have hticks := ticksTo_accept (.pack s.sampleIndices s.palCount true) ht
  rw [complete_pack] at hticks
  refine ⟨_, _, latency_pos _ s.draws, exec_pack_accept hi hq, hticks, ?_, ?_, ?_, hlen,
    holds_storeBytes _ _ _ _ hfit, same_storeBytes _ _ _ _ hfit⟩
  · rw [hi]
    rfl
  · exact BitVec.toNat_ofNat _ _ |>.trans (Nat.mod_eq_of_lt (by omega))
  · exact BitVec.toNat_ofNat _ _ |>.trans ((Nat.mod_eq_of_lt (by omega)).trans hlen)

end Sys2Proof.Machine
end

section
/-! PROOFS. The framer's byte sequences (42_framer.md R150 to R168): where the bytes of an image payload and of a frame
stand, and that byte-stuffing leaves no delimiter and can be undone. -/

namespace Sys2Proof.Machine

/-! ### Little-endian fields -/

/-- A value of 16 bits is read back from the two bytes of its field (20_memory.md R70). -/
theorem toNat_le16 {v : Nat} (h : v < 65536) :
    (BitVec.ofNat 8 (v % 256)).toNat + 256 * (BitVec.ofNat 8 (v >>> 8)).toNat = v := by
  rw [BitVec.toNat_ofNat, BitVec.toNat_ofNat, Nat.shiftRight_eq_div_pow]
  omega

/-! ### The image payload -/

theorem paletteBytes_cons (c : Colour) (p : List Colour) :
    paletteBytes (c :: p) = [red c, green c, blue c] ++ paletteBytes p := rfl

theorem getElem?_paletteBytes (p : List Colour) (i : Nat) {j : Nat} (hj : j < 3) :
    (paletteBytes p)[3 * i + j]? = (p[i]?).bind fun c => [red c, green c, blue c][j]? := by
  induction p generalizing i with
  | nil => rfl
  | cons c p ih =>
    rw [paletteBytes_cons]
    cases i with
    | zero =>
      rw [Nat.mul_zero, Nat.zero_add]
      exact List.getElem?_append_left hj
    | succ i =>
      rw [show 3 * (i + 1) + j = 3 * i + j + 3 by omega]
      exact ih i

/-- The palette's bytes stand behind the 12 bytes of the sub-header (42_framer.md R153). -/
theorem getElem?_imagePayload_palette (p : List Colour) (b : List Byte) {i j : Nat} (hi : i < p.length) (hj : j < 3) :
    (imagePayload p b)[12 + 3 * i + j]? = [red p[i], green p[i], blue p[i]][j]? := by
  have hlt : 3 * i + j < (paletteBytes p).length := by rw [length_paletteBytes]; omega
  calc (imagePayload p b)[12 + 3 * i + j]?
    _ = (paletteBytes p ++ b)[3 * i + j]? := by
        rw [show 12 + 3 * i + j = 3 * i + j + 12 by omega]; rfl
    _ = [red p[i], green p[i], blue p[i]][j]? := by
        rw [List.getElem?_append_left hlt, getElem?_paletteBytes p i hj, List.getElem?_eq_getElem hi, Option.bind_some]

theorem drop_imagePayload (p : List Colour) (b : List Byte) : (imagePayload p b).drop (12 + 3 * p.length) = b := by
  have hlen : (subHeader p.length b.length ++ paletteBytes p).length = 12 + 3 * p.length := by
    rw [List.length_append, length_paletteBytes]; rfl
  rw [imagePayload, ← List.append_assoc, List.drop_left' hlen]

/-- Settles O43: the sub-header has fixed places, and the rest follows it at 12. -/
theorem imagePayloadHasItsLayoutAndFits : Obligations.ImagePayloadHasItsLayoutAndFits := by
  intro p b hpos hle hb
  have hlen := length_imagePayload p b
  have hw := one_le_bitWidthOf p.length
  have hw' := bitWidthOf_le p.length hle
  refine ⟨hlen, by omega, by omega, rfl, rfl, ⟨_, _, rfl, rfl, toNat_le16 (by simp only [Config.lenBias]; omega)⟩,
    ⟨_, _, rfl, rfl, toNat_le16 (by omega)⟩, fun i hi => ?_, drop_imagePayload p b⟩
  rw [List.getElem?_eq_getElem hi]
  exact ⟨getElem?_imagePayload_palette p b hi (j := 0) (by decide),
    getElem?_imagePayload_palette p b hi (j := 1) (by decide), getElem?_imagePayload_palette p b hi (j := 2) (by decide)⟩

/-! ### Byte-stuffing -/

/-- The bytes that `Stuff` escapes: the two delimiters and the escape byte itself (42_framer.md R164). -/
def escaped (b : Byte) : Bool := b == 0x01 || b == 0x02 || b == 0x03

theorem escaped_eq_false {b : Byte} : escaped b = false ↔ b ≠ 0x01 ∧ b ≠ 0x02 ∧ b ≠ 0x03 := by
  simp [escaped, and_assoc]

/-- What `Stuff` puts for a byte: an escape pair that stands for it, or the byte itself. -/
theorem stuffByte_cases (b : Byte) :
    (escaped b = true ∧ ∃ d, stuffByte b = [Config.esc, d] ∧ unremap d = some b)
    ∨ (escaped b = false ∧ stuffByte b = [b]) := by
  unfold stuffByte
  split_ifs with h1 h2 h3
  · subst h1; exact .inl ⟨rfl, _, rfl, rfl⟩
  · subst h2; exact .inl ⟨rfl, _, rfl, rfl⟩
  · subst h3; exact .inl ⟨rfl, _, rfl, rfl⟩
  · exact .inr ⟨escaped_eq_false.2 ⟨h1, h2, h3⟩, rfl⟩

theorem eq_remap_of_unremap {d b : Byte} (h : unremap d = some b) : d = 0x04 ∨ d = 0x05 ∨ d = 0x06 := by
  unfold unremap at h
  split_ifs at h with h4 h5 h6
  exacts [.inl h4, .inr (.inl h5), .inr (.inr h6)]

theorem stuffBytes_cons (b : Byte) (x : List Byte) : stuffBytes (b :: x) = stuffByte b ++ stuffBytes x := rfl

theorem not_delimiter_of_mem_stuffByte {b c : Byte} (h : c ∈ stuffByte b) : c ≠ 0x01 ∧ c ≠ 0x02 := by
  obtain ⟨-, d, hs, hd⟩ | ⟨he, hs⟩ := stuffByte_cases b
  · rw [hs, List.mem_pair] at h
    obtain rfl | rfl := h
    · decide
    · obtain rfl | rfl | rfl := eq_remap_of_unremap hd <;> decide
  · rw [hs, List.mem_singleton] at h
    obtain ⟨h1, h2, -⟩ := escaped_eq_false.1 he
    subst h
    exact ⟨h1, h2⟩

/-- An escape byte in a stuffed sequence is the first of an escape pair. -/
theorem remap_after_esc (x : List Byte) (n : Nat) (h : (stuffBytes x)[n]? = some 0x03) :
    ∃ d, (stuffBytes x)[n + 1]? = some d ∧ (d = 0x04 ∨ d = 0x05 ∨ d = 0x06) := by
  induction x generalizing n with
  | nil => cases h
  | cons b x ih =>
    rw [stuffBytes_cons] at h ⊢
    obtain ⟨-, d, hs, hd⟩ | ⟨he, hs⟩ := stuffByte_cases b
    · have hremap := eq_remap_of_unremap hd
      rw [hs] at h ⊢
      match n with
      | 0 => exact ⟨d, rfl, hremap⟩
      | 1 =>
        have h3 : d = 0x03 := Option.some.inj h
        subst h3
        exact absurd hremap (by decide)
      | n + 2 => exact ih n h
    · rw [hs] at h ⊢
      match n with
      | 0 => exact absurd (Option.some.inj h) (escaped_eq_false.1 he).2.2
      | n + 1 => exact ih n h

theorem length_stuffByte (b : Byte) : (stuffByte b).length = 1 + if escaped b then 1 else 0 := by
  obtain ⟨he, d, hs, -⟩ | ⟨he, hs⟩ := stuffByte_cases b <;> rw [he, hs] <;> rfl

theorem length_stuffBytes (x : List Byte) : (stuffBytes x).length = x.length + x.countP escaped := by
  induction x with
  | nil => rfl
  | cons b x ih =>
    rw [stuffBytes_cons, List.length_append, length_stuffByte, ih, List.length_cons, List.countP_cons]
    omega

/-- Settles O45: the rule's own equations, and what each byte's replacement holds. -/
theorem stuffingRemovesDelimiterBytes : Obligations.StuffingRemovesDelimiterBytes := by
  refine ⟨⟨rfl, stuffBytes_cons⟩, fun x => ⟨fun b hb => ?_, remap_after_esc x, length_stuffBytes x⟩⟩
  obtain ⟨a, -, ha⟩ := List.mem_flatMap.1 hb
  exact not_delimiter_of_mem_stuffByte ha

/-! ### Unstuff -/

theorem unstuffBytes_escape {d b : Byte} (h : unremap d = some b) (x : List Byte) :
    unstuffBytes (Config.esc :: d :: x) = (unstuffBytes x).map (b :: ·) := by
  rw [unstuffBytes, if_pos rfl, h]
  cases unstuffBytes x <;> rfl

theorem unstuffBytes_plain {b : Byte} (h : b ≠ Config.esc) (x : List Byte) :
    unstuffBytes (b :: x) = (unstuffBytes x).map (b :: ·) := by
  cases x with
  | nil => exact if_neg h
  | cons c x =>
    rw [unstuffBytes, if_neg h]
    cases unstuffBytes (c :: x) <;> rfl

/-- `Unstuff` takes off what `Stuff` puts for one byte (42_framer.md R168). -/
theorem unstuffBytes_stuffByte_append (b : Byte) (x : List Byte) :
    unstuffBytes (stuffByte b ++ x) = (unstuffBytes x).map (b :: ·) := by
  obtain ⟨-, d, hs, hd⟩ | ⟨he, hs⟩ := stuffByte_cases b
  · rw [hs]; exact unstuffBytes_escape hd x
  · rw [hs]; exact unstuffBytes_plain (escaped_eq_false.1 he).2.2 x

/-- Settles O46, byte by byte. -/
theorem unstuffRecoversStuffedBytes : Obligations.UnstuffRecoversStuffedBytes := by
  intro x
  induction x with
  | nil => rfl
  | cons b x ih => rw [stuffBytes_cons, unstuffBytes_stuffByte_append, ih, Option.map_some]

/-! ### The frame -/

theorem length_frameBytes (cmd : Byte) (y : List Byte) (stuff : Bool) :
    (frameBytes cmd y stuff).length = (frameBody cmd y stuff).length + 2 := by
  rw [frameBytes, List.length_cons, List.length_append, List.length_singleton]

theorem length_frameBytes_unstuffed (cmd : Byte) (y : List Byte) : (frameBytes cmd y false).length = y.length + 7 := by
  rw [length_frameBytes]
  exact congrArg (· + 2) (length_innerBuffer cmd y)

theorem length_frameBytes_stuffed (cmd : Byte) (y : List Byte) :
    (frameBytes cmd y true).length = y.length + 7 + (innerBuffer cmd y).countP escaped := by
  rw [length_frameBytes, frameBody, if_pos rfl, length_stuffBytes, length_innerBuffer]
  omega

theorem countP_escaped_innerBuffer_le (cmd : Byte) (y : List Byte) : (innerBuffer cmd y).countP escaped ≤ y.length + 5 :=
  List.countP_le_length.trans_eq (length_innerBuffer cmd y)

/-- Settles O47: at most every byte of the inner buffer is escaped. -/
theorem frameLengthFitsOutMem : Obligations.FrameLengthFitsOutMem := by
  intro cmd y s
  have hplain := length_frameBytes_unstuffed cmd y
  have hstuffed := length_frameBytes_stuffed cmd y
  have hcount := countP_escaped_innerBuffer_le cmd y
  refine ⟨hplain, hstuffed, length_innerBuffer cmd y, hcount, fun hy => ?_⟩
  have hrange : 7 ≤ (frameBytes cmd y s).length ∧ (frameBytes cmd y s).length ≤ 4108 := by
    cases s with
    | false => omega
    | true => omega
  exact ⟨hrange.1, hrange.2, hrange.2.trans (by decide)⟩

/-- An unstuffed frame cut before its checksum (42_framer.md R161). -/
theorem frameBytes_unstuffed (cmd : Byte) (y : List Byte) : frameBytes cmd y false =
    Config.startDelim :: (checkedBytes cmd y ++ (le16 (frameChecksum cmd y) ++ [Config.endDelim])) := by
  rw [← List.append_assoc]; rfl

theorem length_checkedBytes (cmd : Byte) (y : List Byte) : (checkedBytes cmd y).length = 3 + y.length :=
  Nat.add_comm (y.length) 3

theorem getElem?_frameBytes_payload (cmd : Byte) {y : List Byte} {j : Nat} (hj : j < y.length) :
    (frameBytes cmd y false)[4 + j]? = y[j]? := by
  rw [frameBytes_unstuffed, Nat.add_comm 4 j]
  change (y ++ _)[j]? = y[j]?
  exact List.getElem?_append_left hj

/-- The checksum and the end delimiter stand behind the payload (42_framer.md R170). -/
theorem getElem?_frameBytes_trailer (cmd : Byte) (y : List Byte) (i : Nat) :
    (frameBytes cmd y false)[4 + i + y.length]? = (le16 (frameChecksum cmd y) ++ [Config.endDelim])[i]? := by
  have hlen := length_checkedBytes cmd y
  rw [frameBytes_unstuffed, show 4 + i + y.length = (3 + y.length + i) + 1 by omega, List.getElem?_cons_succ,
    List.getElem?_append_right (by omega), hlen, Nat.add_sub_cancel_left]

theorem checkedBytes_of_frameBytes (cmd : Byte) (y : List Byte) :
    ((frameBytes cmd y false).drop 1).take (3 + y.length) = checkedBytes cmd y := by
  rw [frameBytes_unstuffed, List.drop_one, List.tail_cons, List.take_left' (length_checkedBytes cmd y)]

/-- Settles O44: four fixed places, then the payload, then the trailer. -/
theorem unstuffedFrameHasItsLayout : Obligations.UnstuffedFrameHasItsLayout := by
  intro cmd y hy
  have hinner : innerLength y = 3 + y.length := Nat.add_right_comm 1 y.length 2
  have hsum : frameChecksum cmd y < 65536 := Nat.mod_lt _ (by decide)
  dsimp only
  rw [checkedBytes_of_frameBytes, ← hinner]
  exact ⟨length_frameBytes_unstuffed cmd y, rfl, ⟨_, _, rfl, rfl, toNat_le16 (by omega)⟩, rfl,
    fun j => getElem?_frameBytes_payload cmd,
    ⟨_, _, getElem?_frameBytes_trailer cmd y 0, getElem?_frameBytes_trailer cmd y 1, toNat_le16 hsum⟩,
    getElem?_frameBytes_trailer cmd y 2⟩

end Sys2Proof.Machine
end

section
/-! PROOFS. BUILD_PAYLOAD and FRAME from their CMD writes to their completions (42_framer.md R156, R169). -/

namespace Sys2Proof.Machine

theorem exec_buildPayload_accept {s : State} (hi : s.seq = .idle) (hq : s.qvalid = true) (hp : s.pvalid = true) :
    exec .buildPayload s =
      .next (accept (.buildPayload s.samplePalette s.palCount s.samplePacked s.packLen true true) s) := by
  rw [exec, execBuildPayload, buildPayloadError, hq, hp, if_pos rfl, if_pos rfl, issue_accept hi]

theorem exec_frame_accept {s : State} (hi : s.seq = .idle) (hlen : s.payloadLen.toNat ≤ 2048) (hw : s.PayloadWritten) :
    exec .frame s = .next (accept (.frame s.frameCmd s.payloadLen s.samplePayload s.stuff) s) := by
  have hmissing : s.firstUnwrittenPayload.map (Fault.unwrittenPayload .frame) = none := by
    rw [(firstUnwrittenPayload_eq_none s).2 hw, Option.map_none]
  rw [exec, execFrame, frameError, if_neg (not_lt.2 hlen), hmissing, issue_accept hi]

theorem length_imagePayload_samples (s : State) :
    (imagePayload s.samplePalette s.samplePacked).length = 12 + 3 * s.palCount.toNat + s.packLen.toNat := by
  rw [length_imagePayload, length_samplePalette, length_samplePacked]

/-- Settles O8: accepted because QVALID = PVALID = 1, and the payload of at most 256 colours and 1024 packed bytes fits
PAYLOAD_MEM. -/
theorem buildPayloadCompletesWithImagePayload : Obligations.BuildPayloadCompletesWithImagePayload := by
  intro s hready hq hp hcount hpack
  obtain ⟨hi, ht⟩ := hready
  have hlen := length_imagePayload_samples s
  have hfit : (imagePayload s.samplePalette s.samplePacked).length ≤ payloadSize := by simp only [payloadSize]; omega
  have hticks := ticksTo_accept (.buildPayload s.samplePalette s.palCount s.samplePacked s.packLen true true) ht
  rw [complete_buildPayload] at hticks
  refine ⟨_, _, latency_pos _ s.draws, exec_buildPayload_accept hi hq hp, hticks, ?_, ?_, hlen,
    holds_storeBytes _ _ _ _ hfit, same_storeBytes _ _ _ _ hfit⟩
  · rw [hi]
    rfl
  · exact BitVec.toNat_ofNat _ _ |>.trans ((Nat.mod_eq_of_lt (by omega)).trans hlen)

/-- Settles O9: accepted because no payload byte is missing, and the completion stores a frame that fits OUT_MEM. -/
theorem frameCompletesWithWireFrame : Obligations.FrameCompletesWithWireFrame := by
  intro s hready hlen hw
  obtain ⟨hi, ht⟩ := hready
  have hpayload : s.samplePayload.length ≤ 2048 := (length_samplePayload s).trans_le hlen
  have hfit : (frameBytes s.frameCmd s.samplePayload s.stuff).length ≤ outSize := by
    have hle := length_frameBytes_le s.frameCmd s.samplePayload s.stuff
    simp only [outSize]; omega
  have hinner : innerLength s.samplePayload = 1 + s.payloadLen.toNat + 2 := by rw [innerLength, length_samplePayload]
  have hticks := ticksTo_accept (.frame s.frameCmd s.payloadLen s.samplePayload s.stuff) ht
  obtain ⟨-, hout, hinnerLen, hsum, hbytes⟩ := holdsFrame_applyFrame
    (s := accept (.frame s.frameCmd s.payloadLen s.samplePayload s.stuff) s) s.frameCmd s.stuff hpayload
  rw [frameChecksum, checkedBytes, hinner] at hsum
  refine ⟨_, _, latency_pos _ s.draws, exec_frame_accept hi hlen hw, hticks, ?_, hout, hinnerLen.trans hinner, hsum,
    hbytes, same_storeBytes _ _ _ _ hfit⟩
  rw [hi]
  rfl

end Sys2Proof.Machine
end

section
/-! PROOFS. What a CMD write answers at once: rejection, acceptance or SOFT_RESET (43_control.md R180, R181, R187,
60_exceptions.md R202, R203). -/

namespace Sys2Proof.Machine

/-- Settles O16: a CMD write that is no SOFT_RESET raises an error or accepts. -/
theorem commandWriteChangesOnlySequencerOrError : Obligations.CommandWriteChangesOnlySequencerOrError := by
  intro i s t hne hexec
  rcases exec_next hexec with ⟨c, rfl⟩ | ⟨hi, snap, _, rfl⟩ | ⟨_, hreset, _⟩
  · exact ⟨rfl, .inl ⟨rfl, rfl, rfl, fun herr => if_pos herr⟩⟩
  · exact ⟨rfl, .inr ⟨hi, rfl, rfl, snap, _, latency_pos snap s.draws, rfl⟩⟩
  · exact absurd hreset hne

/-! ### Rejections by a command's own check -/

theorem exec_pack_reject {s : State} (hi : s.seq = .idle) (hq : s.qvalid = false) :
    exec .pack s = .next (raiseError .notQuantized s) := by
  rw [exec, execPack, packError, hq, if_neg Bool.false_ne_true, issue_error hi]

theorem exec_buildPayload_reject_unquantized {s : State} (hi : s.seq = .idle) (hq : s.qvalid = false) :
    exec .buildPayload s = .next (raiseError .notQuantized s) := by
  rw [exec, execBuildPayload, buildPayloadError, hq, if_neg Bool.false_ne_true, issue_error hi]

theorem exec_buildPayload_reject_unpacked {s : State} (hi : s.seq = .idle) (hq : s.qvalid = true)
    (hp : s.pvalid = false) : exec .buildPayload s = .next (raiseError .notPacked s) := by
  rw [exec, execBuildPayload, buildPayloadError, hq, hp, if_pos rfl, if_neg Bool.false_ne_true, issue_error hi]

theorem exec_frame_reject {s : State} (hi : s.seq = .idle) (hlen : 2048 < s.payloadLen.toNat) :
    exec .frame s = .next (raiseError .payloadRange s) := by
  rw [exec, execFrame, frameError, if_pos hlen, issue_error hi]

/-- Settles O13: each failed check is the error of its code. -/
theorem sequencingChecksRejectWithTheirCodes : Obligations.SequencingChecksRejectWithTheirCodes :=
  ⟨fun _ hi hq => ⟨exec_pack_reject hi hq, exec_buildPayload_reject_unquantized hi hq⟩,
    fun _ => exec_buildPayload_reject_unpacked, fun _ => exec_frame_reject⟩

/-! ### SOFT_RESET -/

theorem exec_softReset_idle {s : State} (hi : s.seq = .idle) : exec .softReset s = .next (resetCsrs s) := by
  rw [exec, execSoftReset, busy_of_idle s hi, if_neg Bool.false_ne_true]

/-- The registers of an idle block after SOFT_RESET are those after hardware reset. -/
theorem resetCsrs_idle {s : State} (hi : s.seq = .idle) : resetCsrs s = { State.reset with
    mem := s.mem, rdata := s.rdata, turns := s.turns, draws := s.draws } := by
  rw [resetCsrs, hi]
  rfl

/-- Settles O11: an idle block resets its registers, and a busy one rejects SOFT_RESET as it does every command. -/
theorem softResetResetsTheRegistersOnly : Obligations.SoftResetResetsTheRegistersOnly :=
  ⟨fun _ hi => (exec_softReset_idle hi).trans (congrArg _ (resetCsrs_idle hi)),
    fun _ hb => exec_busy hb .softReset⟩

end Sys2Proof.Machine
end

section
/-! PROOFS. The sequencer's ticks, and NOP, whose completion is nothing else (43_control.md R184, R185,
60_exceptions.md R216). -/

namespace Sys2Proof.Machine

/-- With no turn waiting, or a tick next, a step is a tick (log 13). -/
theorem step_takesTick {s : State} {rest : List Turn} (h : s.TakesTurn .tick rest) :
    step s = .next (tick { s with turns := rest }) := by
  rcases h with ht | ⟨ht, rfl, _⟩
  · exact step_tick ht
  · rw [step_of_no_turns ht, ← ht]

/-- The host's turns leave SEQ while a command runs. -/
theorem seq_of_hostTurn {s t : State} {x : Turn} {rest : List Turn} (hb : s.busy = true) (ht : s.turns = x :: rest)
    (htick : x ≠ .tick) (hreset : x ≠ .reset) (hstep : step s = .next t) : t.seq = s.seq := by
  obtain ⟨u, hu, _, hsettled⟩ := step_hostTurn hb ht htick hreset
  obtain rfl : u = t := Host.Outcome.next.inj (hu.symm.trans hstep)
  exact (congrArg State.seq hsettled :)

/-- Settles O48: a step that takes a tick is `tick`, and no turn of the host moves SEQ. -/
theorem onlyTicksAdvanceARunningCommand : Obligations.OnlyTicksAdvanceARunningCommand := by
  refine ⟨fun s snap k hrun => ⟨fun rest h => ?_, fun x rest t => seq_of_hostTurn (busy_of_run s hrun)⟩,
    fun s hi => ⟨fun rest ht => ?_, fun ht => ?_⟩⟩
  · have hrun' : ({ s with turns := rest } : State).seq = .run snap k := hrun
    rw [step_takesTick (h.imp_right fun ⟨ht, hrest⟩ => ⟨ht, hrest, rfl⟩)]
    exact ⟨fun hk => congrArg _ (tick_more hrun' hk), fun hk => congrArg _ (tick_last hrun' hk.le)⟩
  · rw [step_tick ht]
    exact congrArg _ (tick_idle (s := { s with turns := rest }) hi)
  · rw [step_of_no_turns ht, tick_idle hi]

theorem exec_nop_accept {s : State} (hi : s.seq = .idle) : exec .nop s = .next (accept .nop s) := by
  rw [exec, execNop, issue_accept hi]

/-- Settles O5: an idle block accepts NOP, and its completion sets DONE alone. -/
theorem nopGoesThroughBusyAndSetsDone : Obligations.NopGoesThroughBusyAndSetsDone := by
  intro s hready
  obtain ⟨hi, ht⟩ := hready
  have hticks := ticksTo_accept .nop ht
  rw [complete_nop] at hticks
  refine ⟨_, latency_pos .nop s.draws, exec_nop_accept hi, ?_⟩
  rw [hi]
  exact hticks

end Sys2Proof.Machine
end

section
/-! PROOFS. What a completion leaves: the registers, STATUS bits and bytes of memory outside the command's write set
(43_control.md R183, R188, 30_encoding.md R94). -/

namespace Sys2Proof.Machine

/-! ### Registers and STATUS -/

/-- A register outside the write set keeps its value. -/
theorem csrWord_complete {snap : Snapshot} {r : Csr} (s : State) (hr : r ≠ .status) (hw : snap.writesCsr r = false) :
    (complete snap s).csrWord r = s.csrWord r := by
  cases r with
  | status => exact absurd rfl hr
  | id | cmd => rfl
  | ctrl | errCode | frameCmd => cases snap <;> rfl
  | palCount =>
    cases snap with
    | quantize | encode => cases hw
    | nop | pack | buildPayload | frame => rfl
  | bitWidth | packLen =>
    cases snap with
    | pack | encode => cases hw
    | nop | quantize | buildPayload | frame => rfl
  | payloadLen =>
    cases snap with
    | buildPayload | encode => cases hw
    | nop | quantize | pack | frame => rfl
  | innerLen | checksum | outLen =>
    cases snap with
    | frame | encode => cases hw
    | nop | quantize | pack | buildPayload => rfl

/-- A completion leaves a result flag, or the flag's bit of STATUS is in the write set. -/
theorem flags_complete (snap : Snapshot) (s : State) :
    ((complete snap s).qvalid = s.qvalid ∨ snap.statusMask.getLsbD 3 = true)
    ∧ ((complete snap s).pvalid = s.pvalid ∨ snap.statusMask.getLsbD 4 = true)
    ∧ ((complete snap s).yvalid = s.yvalid ∨ snap.statusMask.getLsbD 5 = true)
    ∧ ((complete snap s).fvalid = s.fvalid ∨ snap.statusMask.getLsbD 6 = true)
    ∧ ((complete snap s).reduced = s.reduced ∨ snap.statusMask.getLsbD 7 = true) := by
  cases snap with
  | nop => simp [complete_nop]
  | quantize => simp [Snapshot.statusMask, complete_quantize]
  | pack => simp [Snapshot.statusMask, complete_pack]
  | buildPayload => simp [Snapshot.statusMask, complete_buildPayload]
  | frame => simp [Snapshot.statusMask, complete_frame]
  | encode => simp [Snapshot.statusMask]

/-- A STATUS bit above DONE and outside the write set keeps its value. -/
theorem getLsbD_statusWord_complete {snap : Snapshot} {i : Nat} (s : State) (hi : 2 ≤ i)
    (hw : snap.statusMask.getLsbD i = false) : (complete snap s).statusWord.getLsbD i = s.statusWord.getLsbD i := by
  obtain ⟨_, _, herr, _⟩ := complete_keeps snap s
  obtain ⟨hq, hp, hy, hf, hr⟩ := flags_complete snap s
  by_cases h8 : 8 ≤ i
  · have hne (j : Nat) (hj : j < 8) : ¬i = j := by omega
    simp [getLsbD_statusWord, hne]
  · have hi8 : i = 2 ∨ i = 3 ∨ i = 4 ∨ i = 5 ∨ i = 6 ∨ i = 7 := by omega
    simp only [getLsbD_statusWord]
    rcases hi8 with rfl | rfl | rfl | rfl | rfl | rfl
    · simp [herr]
    · simp [hq.resolve_right (ne_true_of_eq_false hw)]
    · simp [hp.resolve_right (ne_true_of_eq_false hw)]
    · simp [hy.resolve_right (ne_true_of_eq_false hw)]
    · simp [hf.resolve_right (ne_true_of_eq_false hw)]
    · simp [hr.resolve_right (ne_true_of_eq_false hw)]

/-! ### Memory -/

/-- A byte store changes nothing beyond its bytes, whether or not they fit the memory. -/
theorem same_storeBytes_length (m : Memory) (base size : Nat) (bs : List Byte) :
    m.SameOutside (m.storeBytes base size bs) base (base + bs.length) := by
  intro a ha
  rw [Memory.read_storeBytes, if_neg]
  simp only [List.length_take]; omega

/-- ENCODE leaves every byte outside the five result ranges (43_control.md R186). -/
theorem read_applyEncoded_outside (q : Quantized) (stuff : Bool) (s : State) {a : Nat}
    (hpal : ¬(paletteBase ≤ a ∧ a < paletteBase + 1024)) (hidx : ¬(indexBase ≤ a ∧ a < indexBase + 4096))
    (hpack : ¬(packBase ≤ a ∧ a < packBase + (encodePacked q).length))
    (hpay : ¬(payloadBase ≤ a ∧ a < payloadBase + (encodePayload q).length))
    (hout : ¬(outBase ≤ a ∧ a < outBase + (frameBytes Config.imageCmd (encodePayload q) stuff).length)) :
    (applyEncoded q stuff s).mem.read a = s.mem.read a := by
  unfold applyEncoded
  rw [applyFrame_mem, same_storeBytes_length _ _ _ _ a hout, applyPayload_mem, same_storeBytes_length _ _ _ _ a hpay,
    applyPacked_mem, same_storeBytes_length _ _ _ _ a hpack, read_applyQuantized_outside s hpal hidx]

/-- A completion leaves every byte outside the command's write set. -/
theorem read_complete_outside (snap : Snapshot) (s : State) {a : Nat}
    (himg : snap.writesImage = true →
      ¬(paletteBase ≤ a ∧ a < paletteBase + 1024) ∧ ¬(indexBase ≤ a ∧ a < indexBase + 4096))
    (hpack : ¬(packBase ≤ a ∧ a < packBase + snap.newPackLen))
    (hpay : ¬(payloadBase ≤ a ∧ a < payloadBase + snap.newPayloadLen))
    (hout : ¬(outBase ≤ a ∧ a < outBase + snap.newOutLen)) :
    (complete snap s).mem.read a = s.mem.read a := by
  cases snap with
  | nop => rfl
  | quantize pixels => exact read_applyQuantized_outside s (himg rfl).1 (himg rfl).2
  | pack indices palCount qvalid => exact same_storeBytes_length _ _ _ _ a hpack
  | buildPayload palette palCount packed packLen qvalid pvalid => exact same_storeBytes_length _ _ _ _ a hpay
  | frame cmd payloadLen payload stuff => exact same_storeBytes_length _ _ _ _ a hout
  | encode pixels stuff => exact read_applyEncoded_outside _ stuff s (himg rfl).1 (himg rfl).2 hpack hpay hout

/-- Settles O49: `SEQ` and DONE by R183, and each kind of place by its own lemma. -/
theorem completionChangesOnlyTheWriteSet : Obligations.CompletionChangesOnlyTheWriteSet := by
  intro s snap
  refine ⟨complete_done snap s, busy_complete snap s, fun r => csrWord_complete s,
    fun i => getLsbD_statusWord_complete s, fun a => not_imp_comm.1 fun houtside => ?_⟩
  obtain ⟨himg, hpack, hpay, hout⟩ : _ ∧ _ ∧ _ ∧ _ := by simpa only [not_or] using houtside
  exact read_complete_outside snap s (fun hw => not_or.1 fun h => himg ⟨hw, h⟩) hpack hpay hout

end Sys2Proof.Machine
end

section
/-! PROOFS. ENCODE from its CMD write to its completion, and that it leaves what the four commands leave one after the
other (43_control.md R186). -/

namespace Sys2Proof.Machine

/-! ### Lengths in the registers -/

theorem innerLength_eq (y : List Byte) : innerLength y = y.length + 3 := by rw [innerLength]; omega

section
variable {q : Quantized}

/-- BIT_WIDTH has room for the width of an index (10_state.md R43). -/
theorem Quantized.Fits.toNat_bitWidth (hf : q.Fits) :
    (BitVec.ofNat 4 (bitWidthOf q.palette.length)).toNat = bitWidthOf q.palette.length := by
  have hle := hf.bitWidth_le
  rw [BitVec.toNat_ofNat, Nat.mod_eq_of_lt (by omega)]

/-- PACK_LEN has room for the number of packed bytes (10_state.md R44). -/
theorem Quantized.Fits.toNat_packLen (hf : q.Fits) :
    (BitVec.ofNat 11 (encodePacked q).length).toNat = (encodePacked q).length := by
  have hle := hf.length_encodePacked_le
  rw [BitVec.toNat_ofNat, Nat.mod_eq_of_lt (by omega)]

/-- PAYLOAD_LEN has room for the length of the payload (10_state.md R41). -/
theorem Quantized.Fits.toNat_payloadLen (hf : q.Fits) :
    (BitVec.ofNat 16 (encodePayload q).length).toNat = (encodePayload q).length := by
  have hle := hf.length_encodePayload_le
  rw [BitVec.toNat_ofNat, Nat.mod_eq_of_lt (by omega)]

/-! ### What each stage leaves of the results before it -/

/-- The later stages of ENCODE leave what is beside PACK_MEM, PAYLOAD_MEM and OUT_MEM. -/
theorem sameOn_applyEncoded (q : Quantized) (stuff : Bool) (s : State) {lo hi : Nat}
    (hpack : hi ≤ packBase ∨ packBase + packSize ≤ lo) (hpay : hi ≤ payloadBase ∨ payloadBase + payloadSize ≤ lo)
    (hout : hi ≤ outBase ∨ outBase + outSize ≤ lo) :
    (applyQuantized q s).mem.SameOn (applyEncoded q stuff s).mem lo hi :=
  ((sameOn_applyPacked _ _ _ hpack).trans (sameOn_applyPayload _ _ hpay)).trans (sameOn_applyFrame _ _ _ _ hout)

theorem holdsColours_applyEncoded (hf : q.Fits) (stuff : Bool) (s : State) :
    (applyEncoded q stuff s).mem.HoldsColours paletteBase q.palette :=
  (holdsColours_applyQuantized s hf).congr (size := 256)
    (sameOn_applyEncoded q stuff s (by decide) (by decide) (by decide)) hf.palette_le

/-- PALETTE_MEM beyond the palette has no defined value (40_quantizer.md R117). -/
theorem colour?_applyEncoded_eq_none (stuff : Bool) (s : State) {i : Nat} (h1 : q.palette.length ≤ i) (h2 : i < 256) :
    (applyEncoded q stuff s).mem.colour? (paletteBase + 4 * i) = none := by
  have same : (applyQuantized q s).mem.SameOn (applyEncoded q stuff s).mem paletteBase (paletteBase + 1024) :=
    sameOn_applyEncoded q stuff s (by decide) (by decide) (by decide)
  rw [colour?_congr fun j hj => same _ (by omega) (by omega), colour?_applyQuantized_eq_none s h1 h2]

theorem holdsEntries_applyEncoded (hf : q.Fits) (stuff : Bool) (s : State) :
    (applyEncoded q stuff s).mem.HoldsEntries indexBase (indexBytes q.indices) :=
  (holdsEntries_applyQuantized s hf).congr (size := 1024)
    (sameOn_applyEncoded q stuff s (by decide) (by decide) (by decide)) hf.length_indexBytes.le

/-- A packing of at most 1024 bytes is held whole. -/
theorem holdsBytes_applyPacked (w : Nat) {b : List Byte} (s : State) (hb : b.length ≤ 1024) :
    (applyPacked w b s).mem.HoldsBytes packBase b := holds_storeBytes _ _ _ _ hb

/-- A payload of at most 2048 bytes is held whole. -/
theorem holdsBytes_applyPayload {y : List Byte} (s : State) (hy : y.length ≤ 2048) :
    (applyPayload y s).mem.HoldsBytes payloadBase y := holds_storeBytes _ _ _ _ hy

theorem holdsBytes_packed_applyEncoded (hf : q.Fits) (stuff : Bool) (s : State) :
    (applyEncoded q stuff s).mem.HoldsBytes packBase (encodePacked q) :=
  (holdsBytes_applyPacked _ _ hf.length_encodePacked_le).congr (size := 1024)
    ((sameOn_applyPayload _ _ (by decide)).trans (sameOn_applyFrame _ _ _ _ (by decide))) hf.length_encodePacked_le

theorem holdsBytes_payload_applyEncoded (hf : q.Fits) (stuff : Bool) (s : State) :
    (applyEncoded q stuff s).mem.HoldsBytes payloadBase (encodePayload q) :=
  (holdsBytes_applyPayload _ hf.length_encodePayload_le).congr (size := 2048)
    (sameOn_applyFrame _ _ _ _ (by decide)) hf.length_encodePayload_le

end

/-! ### ENCODE -/

theorem exec_encode_accept {s : State} (hi : s.seq = .idle) (hw : s.PixelsWritten) :
    exec .encode s = .next (accept (.encode s.samplePixels s.stuff) s) := by
  have hmissing : s.firstUnwrittenPixel.map (Fault.unwrittenPixel .encode) = none := by
    rw [(firstUnwrittenPixel_eq_none s).2 hw, Option.map_none]
  rw [exec, execEncode, hmissing, issue_accept hi]

theorem complete_encode_eq_finish {pixels : List Colour} {q : Quantized} (hq : quantizeGrid pixels = q) (stuff : Bool)
    (s : State) : complete (.encode pixels stuff) s = (applyEncoded q stuff s).finish := by subst hq; rfl

/-- Settles O10: accepted because no pixel is missing, and each stage's result outlives the stages after it. -/
theorem encodeCompletesWithTheWholePipeline : Obligations.EncodeCompletesWithTheWholePipeline := by
  intro s hready hw
  obtain ⟨hi, ht⟩ := hready
  have hf := fits_samplePixels s
  obtain ⟨q, hq⟩ : ∃ q, quantizeGrid s.samplePixels = q := ⟨_, rfl⟩
  dsimp only
  rw [hq] at hf ⊢
  have hticks := ticksTo_accept (.encode s.samplePixels s.stuff) ht
  rw [complete_encode_eq_finish hq] at hticks
  obtain ⟨_, hout, hinner, hsum, hframe⟩ :
      (applyEncoded q s.stuff (accept (.encode s.samplePixels s.stuff) s)).HoldsFrame Config.imageCmd
        (encodePayload q) s.stuff := holdsFrame_applyFrame _ _ hf.length_encodePayload_le
  refine ⟨_, _, latency_pos _ s.draws, exec_encode_accept hi hw, hticks, ?_, hf.toNat_palCount, hf.toNat_bitWidth,
    hf.toNat_packLen, hf.toNat_payloadLen, hinner.trans (innerLength_eq _), hout, hsum,
    holdsColours_applyEncoded hf _ _, fun i => colour?_applyEncoded_eq_none _ _, holdsEntries_applyEncoded hf _ _,
    holdsBytes_packed_applyEncoded hf _ _, holdsBytes_payload_applyEncoded hf _ _, hframe,
    fun a => read_applyEncoded_outside q s.stuff _⟩
  rw [hi]
  rfl

/-! ### The five commands of R186, each from a ready block -/

section
variable {s : State}

/-- An accepted command completes, with no turn waiting. -/
theorem completes_of_accept {i : Instr} {snap : Snapshot} (ht : s.turns = [])
    (hexec : exec i s = .next (accept snap s)) : Completes i s (complete snap (accept snap s)) :=
  ⟨_, _, latency_pos snap s.draws, hexec, ticksTo_accept snap ht⟩

/-- A completion leaves the block ready again. -/
theorem ready_finish (ht : s.turns = []) : s.finish.Ready := ⟨rfl, ht⟩

theorem completes_quantize {q : Quantized} (h : s.Ready) (hw : s.PixelsWritten)
    (hq : quantizeGrid s.samplePixels = q) :
    Completes .quantize s (applyQuantized q { s with draws := s.draws + 1 }).finish := by
  obtain ⟨hi, ht⟩ := h
  have hc := completes_of_accept ht (exec_quantize_accept hi hw)
  rw [complete_quantize_eq_finish hq] at hc
  exact hc

/-- PACK of a quantization's results. -/
theorem completes_pack {q : Quantized} (hf : q.Fits) (h : s.Ready) (hv : s.qvalid = true)
    (hn : s.palCount.toNat = q.palette.length) (hidx : s.mem.HoldsEntries indexBase (indexBytes q.indices)) :
    Completes .pack s
      (applyPacked (bitWidthOf q.palette.length) (encodePacked q) { s with draws := s.draws + 1 }).finish := by
  obtain ⟨hi, ht⟩ := h
  rw [← hn, ← hf.packBytes_eq hn, ← sampleIndices_of_holds hf.length_indexBytes hidx]
  exact completes_of_accept ht (exec_pack_accept hi hv)

/-- BUILD_PAYLOAD of a quantization's palette and packed indices. -/
theorem completes_buildPayload {q : Quantized} (h : s.Ready) (hq : s.qvalid = true) (hp : s.pvalid = true)
    (hn : s.palCount.toNat = q.palette.length) (hpal : s.mem.HoldsColours paletteBase q.palette)
    (hlen : s.packLen.toNat = (encodePacked q).length) (hpack : s.mem.HoldsBytes packBase (encodePacked q)) :
    Completes .buildPayload s (applyPayload (encodePayload q) { s with draws := s.draws + 1 }).finish := by
  obtain ⟨hi, ht⟩ := h
  rw [encodePayload, ← samplePalette_of_holds hn hpal, ← samplePacked_of_holds hlen hpack]
  exact completes_of_accept ht (exec_buildPayload_accept hi hq hp)

/-- FRAME of a payload that PAYLOAD_MEM holds. -/
theorem completes_frame {cmd : Byte} {y : List Byte} (h : s.Ready) (hcmd : s.frameCmd = cmd) (hy : y.length ≤ 2048)
    (hlen : s.payloadLen.toNat = y.length) (hpay : s.mem.HoldsBytes payloadBase y) :
    Completes .frame s (applyFrame cmd y s.stuff { s with draws := s.draws + 1 }).finish := by
  obtain ⟨hi, ht⟩ := h
  obtain ⟨hsample, hw⟩ := samplePayload_of_holds hlen hpay
  rw [← hcmd, ← hsample]
  exact completes_of_accept ht (exec_frame_accept hi (hlen.trans_le hy) hw)

theorem completes_encode {q : Quantized} (h : s.Ready) (hw : s.PixelsWritten)
    (hq : quantizeGrid s.samplePixels = q) :
    Completes .encode s (applyEncoded q s.stuff { s with draws := s.draws + 1 }).finish := by
  obtain ⟨hi, ht⟩ := h
  have hc := completes_of_accept ht (exec_encode_accept hi hw)
  rw [complete_encode_eq_finish hq] at hc
  exact hc

end

/-- Settles O51: each command finds what the one before it left, and ENCODE is the four stages one after the other. -/
theorem encodeEqualsTheFourCommandsInOrder : Obligations.EncodeEqualsTheFourCommandsInOrder := by
  intro s hready hw hcmd
  have ht : s.turns = [] := hready.2
  have hf := fits_samplePixels s
  obtain ⟨q, hq⟩ : ∃ q, quantizeGrid s.samplePixels = q := ⟨_, rfl⟩
  rw [hq] at hf
  have hpal {t : State} : (applyPacked (bitWidthOf q.palette.length) (encodePacked q)
      (applyQuantized q t)).mem.HoldsColours paletteBase q.palette :=
    (holdsColours_applyQuantized t hf).congr (size := 256) (sameOn_applyPacked _ _ _ (by decide)) hf.palette_le
  exact ⟨_, _, _, _, _, completes_quantize hready hw hq,
    completes_pack hf (ready_finish ht) rfl hf.toNat_palCount (holdsEntries_applyQuantized _ hf),
    completes_buildPayload (ready_finish ht) rfl rfl hf.toNat_palCount hpal hf.toNat_packLen
      (holdsBytes_applyPacked _ _ hf.length_encodePacked_le),
    completes_frame (ready_finish ht) hcmd hf.length_encodePayload_le hf.toNat_payloadLen
      (holdsBytes_applyPayload _ hf.length_encodePayload_le),
    completes_encode hready hw hq, rfl⟩

end Sys2Proof.Machine
end

section
/-! PROOFS. Errors do not stop the block (60_exceptions.md R201 to R207): what `raise Error(code)` records, that a busy
block rejects every command, and that only an input never written (70_reset_and_hazards.md R236) stops a step. -/

namespace Sys2Proof.Machine

/-! ### Recording an error -/

/-- Settles O17: `raiseError` writes ERR and ERR_CODE alone, and ERR decides whose code stays. -/
theorem raisedErrorKeepsTheFirstCode : Obligations.RaisedErrorKeepsTheFirstCode := by
  refine fun c s => ⟨rfl, fun herr => ?_, fun herr => ?_⟩
  · rw [raiseError_errCode, herr, if_neg Bool.false_ne_true]
  · rw [raiseError_errCode, if_pos herr]

/-- Settles O12: `exec_busy`, with the record and the code of CMD_WHILE_BUSY written out. -/
theorem busyBlockRejectsEveryCommand : Obligations.BusyBlockRejectsEveryCommand := fun i _ hb => exec_busy hb i

/-! ### The model fault -/

/-- The fault `f` names `op` and an entry never written that `op` would consume (70_reset_and_hazards.md R236). -/
inductive State.LacksInput (s : State) : Instr → Fault → Prop where
  | pixel (op : Instr) (p : Nat) (hop : op = .quantize ∨ op = .encode) (hp : p < 1024)
      (hw : s.mem.colourWritten (pixelBase + 4 * p) = false) : s.LacksInput op (.unwrittenPixel op p)
  | payload (b : Nat) (hb : b < s.payloadLen.toNat) (hlen : s.payloadLen.toNat ≤ 2048)
      (hw : s.mem.byteWritten (payloadBase + b) = false) : s.LacksInput .frame (.unwrittenPayload .frame b)

/-- A CMD write of `op` answers a next state, or the block is idle and lacks an input of `op`. -/
def State.GoesOnOrLacksInput (s : State) (op : Instr) (answer : Outcome) : Prop :=
  (∃ t, answer = .next t) ∨ (s.seq = .idle ∧ ∃ f, answer = .fault f ∧ s.LacksInput op f)

theorem firstUnwrittenPixel_eq_some {s : State} {p : Nat} (h : s.firstUnwrittenPixel = some p) :
    p < 1024 ∧ s.mem.colourWritten (pixelBase + 4 * p) = false := by
  rw [firstUnwrittenPixel_eq_find] at h
  exact ⟨List.mem_range.1 (List.mem_of_find?_eq_some h), by simpa using List.find?_some h⟩

theorem firstUnwrittenPayload_eq_some {s : State} {b : Nat} (h : s.firstUnwrittenPayload = some b) :
    b < s.payloadLen.toNat ∧ s.mem.byteWritten (payloadBase + b) = false := by
  rw [firstUnwrittenPayload_eq_find] at h
  exact ⟨List.mem_range.1 (List.mem_of_find?_eq_some h), by simpa using List.find?_some h⟩

theorem payloadLen_le_of_frameError_eq_none {s : State} (h : frameError s = none) : s.payloadLen.toNat ≤ 2048 := by
  by_contra hlen
  rw [frameError, if_pos (not_le.1 hlen)] at h
  cases h

section
variable {s : State} {op : Instr}

/-- An acceptance stops only with the fault it is given, after its checks have passed. -/
theorem issue_goesOnOrLacksInput {e : Option ErrorCode} {m : Option Fault} (snap : Snapshot)
    (hm : ∀ f, e = none → m = some f → s.LacksInput op f) : s.GoesOnOrLacksInput op (issue e m snap s) := by
  rcases issue_cases e m snap s with ⟨c, hc⟩ | ⟨hi, he, f, hf, hfault⟩ | ⟨_, _, _, ha⟩
  · exact .inl ⟨_, hc⟩
  · exact .inr ⟨hi, f, hfault, hm f he hf⟩
  · exact .inl ⟨_, ha⟩

theorem lacksInput_of_firstUnwrittenPixel {f : Fault} (hop : op = .quantize ∨ op = .encode)
    (h : s.firstUnwrittenPixel.map (Fault.unwrittenPixel op) = some f) : s.LacksInput op f := by
  obtain ⟨p, hp, rfl⟩ := Option.map_eq_some_iff.1 h
  obtain ⟨hlt, hw⟩ := firstUnwrittenPixel_eq_some hp
  exact .pixel op p hop hlt hw

theorem lacksInput_of_firstUnwrittenPayload {f : Fault} (he : frameError s = none)
    (h : s.firstUnwrittenPayload.map (Fault.unwrittenPayload .frame) = some f) : s.LacksInput .frame f := by
  obtain ⟨b, hb, rfl⟩ := Option.map_eq_some_iff.1 h
  obtain ⟨hlt, hw⟩ := firstUnwrittenPayload_eq_some hb
  exact .payload b hlt (payloadLen_le_of_frameError_eq_none he) hw

end

theorem exec_goesOnOrLacksInput (op : Instr) (s : State) : s.GoesOnOrLacksInput op (exec op s) := by
  cases op with
  | nop | pack | buildPayload => exact issue_goesOnOrLacksInput (m := none) _ nofun
  | quantize => exact issue_goesOnOrLacksInput _ fun f _ => lacksInput_of_firstUnwrittenPixel (.inl rfl)
  | encode => exact issue_goesOnOrLacksInput _ fun f _ => lacksInput_of_firstUnwrittenPixel (.inr rfl)
  | frame => exact issue_goesOnOrLacksInput _ fun f => lacksInput_of_firstUnwrittenPayload
  | softReset =>
    cases hb : s.busy with
    | true => exact .inl ⟨_, exec_busy hb .softReset⟩
    | false => exact .inl ⟨_, exec_softReset_idle ((busy_eq_false_iff s).1 hb)⟩

/-! ### One step -/

theorem step_reset {s : State} {rest : List Turn} (ht : s.turns = .reset :: rest) :
    step s = .next (hardwareReset { s with turns := rest }) := by
  unfold step; rw [ht]; rfl

/-- A host write stops only at CMD, with a word that decodes to a command. -/
theorem hostWrite_goesOn_or_command (a : Addr) (v : Word) (s : State) :
    (∃ t, hostWrite a v s = .next t)
    ∨ ∃ op, targetOf a = .csr .cmd ∧ decodeWord v = .ok op ∧ hostWrite a v s = exec op s := by
  unfold hostWrite
  split
  · next ha =>
    unfold presentCommand
    cases hd : decodeWord v with
    | ok op => exact .inr ⟨op, ha, rfl, rfl⟩
    | error e => exact .inl ⟨_, rfl⟩
  · exact .inl ⟨_, rfl⟩

/-- A step stops only where the next turn is a CMD write of a command. -/
theorem step_goesOn_or_command (s : State) : (∃ t, step s = .next t)
    ∨ ∃ a v rest op, s.turns = .write a v :: rest ∧ targetOf a = .csr .cmd ∧ decodeWord v = .ok op
        ∧ step s = exec op { s with turns := rest } := by
  cases ht : s.turns with
  | nil => exact .inl ⟨_, step_of_no_turns ht⟩
  | cons x rest =>
    cases x with
    | read a => exact .inl ⟨_, step_read ht⟩
    | tick => exact .inl ⟨_, step_tick ht⟩
    | reset => exact .inl ⟨_, step_reset ht⟩
    | write a v =>
      rw [step_write ht]
      rcases hostWrite_goesOn_or_command a v { s with turns := rest } with hgo | ⟨op, ha, hd, he⟩
      · exact .inl hgo
      · exact .inr ⟨a, v, rest, op, rfl, ha, hd, he⟩

/-- Settles O15: a step that stops is a CMD write of a command, and a command stops only for an input it lacks. -/
theorem everyStepGoesOnButForUnwrittenInput : Obligations.EveryStepGoesOnButForUnwrittenInput := by
  intro s
  rcases step_goesOn_or_command s with hgo | ⟨a, v, rest, op, ht, ha, hd, hstep⟩
  · exact .inl hgo
  · rcases exec_goesOnOrLacksInput op { s with turns := rest } with ⟨t, hgo⟩ | ⟨hi, f, hfault, hlacks⟩
    · exact .inl ⟨t, hstep.trans hgo⟩
    · refine .inr ⟨hi, a, v, rest, op, ht, ha, hd, ?_⟩
      have hstop : step s = .fault f := hstep.trans hfault
      cases hlacks with
      | pixel _ p hop hp hw => exact .inl ⟨hop, p, hstop, hp, hw⟩
      | payload b hb hlen hw => exact .inr ⟨rfl, b, hstop, hb, hlen, hw⟩

end Sys2Proof.Machine
end

section
/-! PROOFS. What reset leaves, that hardware reset reaches it from any state (70_reset_and_hazards.md R231, R232), and
the fault of a command whose input was never written since (R236). -/

namespace Sys2Proof.Machine

/-! ### The reset state -/

/-- Settles O34: each value is a field of the reset state, or a view of such fields. -/
theorem resetLeavesTheSpecifiedValues : Obligations.ResetLeavesTheSpecifiedValues := by
  have hstatus : State.reset.statusWord = 0 := rfl
  have hirq : State.reset.irq = false := rfl
  have hunwritten : ∀ a, State.reset.mem.byteWritten a = false := fun _ => rfl
  exact ⟨rfl, rfl, rfl, rfl, rfl, hstatus, rfl, rfl, rfl, rfl, rfl, rfl, rfl, rfl, rfl, hirq, hunwritten⟩

/-- What hardware reset keeps is the read-data port and the model's own fields (log 9). -/
theorem hardwareReset_eq (s : State) :
    hardwareReset s = { State.reset with rdata := s.rdata, turns := s.turns, draws := s.draws } := rfl

/-- Settles O35: the next turn is the hardware reset, which keeps nothing of the block. -/
theorem hardwareResetReachesTheResetState : Obligations.HardwareResetReachesTheResetState := by
  intro s rest ht
  rw [step_reset ht, hardwareReset_eq]

theorem memoryInv_reset : State.reset.MemoryInv := memoryInv_iff.2 ⟨wf_reset, nofun⟩

theorem errorInv_reset : State.reset.ErrorInv := errorInv_clear rfl rfl

theorem validInv_reset : State.reset.ValidInv := validInv_of_idle rfl (.of_flags_clear rfl rfl rfl rfl)

/-- Settles O54: the memory lists nothing, there is no error, and no flag is set that could claim a result. -/
theorem resetMeetsTheInvariants : Obligations.ResetMeetsTheInvariants :=
  ⟨memoryInv_reset, errorInv_reset, validInv_reset⟩

/-! ### Commands whose input was never written -/

section
variable {s : State}

theorem firstUnwrittenPixel_eq_some_iff {p : Nat} : s.firstUnwrittenPixel = some p ↔
    p < 1024 ∧ s.mem.colourWritten (pixelBase + 4 * p) = false
      ∧ ∀ p' < p, s.mem.colourWritten (pixelBase + 4 * p') = true := by
  rw [firstUnwrittenPixel_eq_find, List.find?_range_eq_some]
  simp [and_left_comm]

theorem firstUnwrittenPayload_eq_some_iff {b : Nat} : s.firstUnwrittenPayload = some b ↔
    b < s.payloadLen.toNat ∧ s.mem.byteWritten (payloadBase + b) = false
      ∧ ∀ b' < b, s.mem.byteWritten (payloadBase + b') = true := by
  rw [firstUnwrittenPayload_eq_find, List.find?_range_eq_some]
  simp [and_left_comm]

theorem exec_quantize_fault {p : Nat} (hi : s.seq = .idle) (hp : s.firstUnwrittenPixel = some p) :
    exec .quantize s = .fault (.unwrittenPixel .quantize p) := by
  rw [exec, execQuantize, hp, Option.map_some, issue_fault hi]

theorem exec_encode_fault {p : Nat} (hi : s.seq = .idle) (hp : s.firstUnwrittenPixel = some p) :
    exec .encode s = .fault (.unwrittenPixel .encode p) := by
  rw [exec, execEncode, hp, Option.map_some, issue_fault hi]

/-- FRAME looks at its payload only after the check of PAYLOAD_RANGE has passed. -/
theorem exec_frame_fault {b : Nat} (hi : s.seq = .idle) (hlen : s.payloadLen.toNat ≤ 2048)
    (hb : s.firstUnwrittenPayload = some b) : exec .frame s = .fault (.unwrittenPayload .frame b) := by
  rw [exec, execFrame, frameError, if_neg (not_lt.2 hlen), hb, Option.map_some, issue_fault hi]

end

/-- Settles O14: the lowest unwritten entry is the one the command's search finds, and the fault names it. -/
theorem unwrittenInputIsTheNamedModelFault : Obligations.UnwrittenInputIsTheNamedModelFault := by
  refine ⟨fun s p hi hp hbelow hw => ?_, fun s b hi hlen hb hbelow hw => ?_⟩
  · have hfirst := firstUnwrittenPixel_eq_some_iff.2 ⟨hp, hw, hbelow⟩
    exact ⟨exec_quantize_fault hi hfirst, exec_encode_fault hi hfirst⟩
  · exact exec_frame_fault hi hlen (firstUnwrittenPayload_eq_some_iff.2 ⟨hb, hw, hbelow⟩)

end Sys2Proof.Machine
end
